-- ==== Sys2Proof/Word.lean ====
section
/-! DEFINITION. The word types of LZOP-FE and the two kinds of checksum accumulator, as plain data. -/

namespace Sys2Proof

/-- A 32-bit register value, command word or wire field (rules R8, R21, R90). -/
abbrev Word := BitVec 32

/-- A 16-bit header field (rule R98). -/
abbrev Half := BitVec 16

/-- One byte (rule R9). -/
abbrev Byte := BitVec 8

/-- A 4-bit completion code field of STATUS (rules R34, R240). -/
abbrev Nibble := BitVec 4

/-- The content of an Adler-32 accumulator: two 16-bit values (rule R38). The bound
`0 <= a, b < 65521` is `adlerInRange` of Machine/Checksum.lean. -/
structure AdlerAcc where
  a : Half
  b : Half
deriving DecidableEq, Repr, Inhabited

/-- The content of a CRC-32 accumulator: one 32-bit value (rule R39). -/
structure CrcAcc where
  c : Word
deriving DecidableEq, Repr, Inhabited

end Sys2Proof
end

