-- ==== Sys2Proof/Config.lean ====
section
/-! DEFINITION. The parameters of rule R6 and the free values: what an implementation or an outside
agent fixes and the spec does not. Every `opaque` constant here has no body: nothing can be proved of
its value (beyond its type), so a statement that holds, holds whatever it is. -/

namespace Sys2Proof

/-- Which function a checksum parameter of rule R6 is (93_implementation_defined.md U19). State is plain
data, so a parameter names its function; what the name stands for is `adler32Of` and `crc32Of` of
Machine/Checksum.lean (log entry 2). -/
inductive ChecksumFunction where
  /-- The reference instantiation: rule R131 for `adler32`, rule R132 for `crc32`. -/
  | reference
  /-- Some other function, one of a family of which nothing is known but rule R134's property. -/
  | other (index : Nat)
deriving DecidableEq, Repr, Inhabited

/-- The implementation parameters of rule R6. Their constraints (rule R7) are `Params.wf`. -/
structure Params where
  /-- `MAGIC`, nine fixed bytes (rule R97). -/
  magic : Vector Byte 9
  /-- `LZOP_VERSION`. -/
  lzopVersion : Half
  /-- `LIB_VERSION`. -/
  libVersion : Half
  /-- `COMPAT_VERSION`. -/
  compatVersion : Half
  /-- `ALGO_LZO1X`, the one legal algorithm-identifier (rule R153). -/
  algoLzo1x : Byte
  /-- `LEVEL_LZO1X`, the one legal algorithm-level (rule R153). -/
  levelLzo1x : Byte
  /-- `F_ADLER32_D`. -/
  fAdler32D : Word
  /-- `F_ADLER32_C`. -/
  fAdler32C : Word
  /-- `F_CRC32_D`. -/
  fCrc32D : Word
  /-- `F_CRC32_C`. -/
  fCrc32C : Word
  /-- `RAW_SIZE`, the number of bytes of the RAW space (rule R61). -/
  rawSize : Nat
  /-- `CAND_SIZE`, the number of bytes of the CAND space (rule R63). -/
  candSize : Nat
  /-- `adler32`, the Adler-32 checksum primitive. -/
  adlerFunction : ChecksumFunction
  /-- `crc32`, the CRC-32 checksum primitive. -/
  crcFunction : ChecksumFunction
deriving DecidableEq, Repr

/-- The two checksum data paths (rule R130): over the raw bytes and over the candidate bytes. -/
inductive Path where
  | d
  | c
deriving DecidableEq, Repr

/-- What the sink does with one request: the two answers of rule R66, or no answer at all
(rule R301; 93_implementation_defined.md U11). -/
inductive SinkAnswer where
  | ok
  | err
  | silent
deriving DecidableEq, Repr, Inhabited

/-- FREE VALUE (log entry 1): parameter `MAGIC`. -/
opaque Config.magic : Vector Byte 9

/-- FREE VALUE (log entry 1): parameter `LZOP_VERSION`. -/
opaque Config.lzopVersion : Half

/-- FREE VALUE (log entry 1): parameter `LIB_VERSION`. -/
opaque Config.libVersion : Half

/-- FREE VALUE (log entry 1): parameter `COMPAT_VERSION`. -/
opaque Config.compatVersion : Half

/-- FREE VALUE (log entry 1): parameter `ALGO_LZO1X`. -/
opaque Config.algoLzo1x : Byte

/-- FREE VALUE (log entry 1): parameter `LEVEL_LZO1X`. -/
opaque Config.levelLzo1x : Byte

/-- FREE VALUE (log entry 1): where the four flag bits stand. Any four pairwise distinct bit positions
are the images of 0, 1, 2, 3 under some permutation of the 32 positions, so this is exactly rule R7's
constraint on the masks, and nothing more. -/
opaque Config.flagPlace : Equiv.Perm (Fin 32)

/-- FREE VALUE (log entry 1): parameter `RAW_SIZE`, 0 .. 2^32. -/
opaque Config.rawSize : Fin (2 ^ 32 + 1)

/-- FREE VALUE (log entry 1): parameter `CAND_SIZE`, 0 .. 2^32. -/
opaque Config.candSize : Fin (2 ^ 32 + 1)

/-- FREE VALUE (log entry 2): parameter `adler32`. -/
opaque Config.adlerFunction : ChecksumFunction

/-- FREE VALUE (log entry 2): parameter `crc32`. -/
opaque Config.crcFunction : ChecksumFunction

/-- FREE VALUE (log entry 2): the running value another checksum function starts from. -/
opaque Config.otherReset : (index : Nat) → Nat

/-- FREE VALUE (log entry 2): the running value of another checksum function after one more byte. Every
sequence of bytes can have a running value of its own, so every function is some function of the
family. -/
opaque Config.otherStep : (index running : Nat) → Byte → Nat

/-- FREE VALUE (log entry 2): the 32-bit value another checksum function gives for a running value. -/
opaque Config.otherRead : (index running : Nat) → Word

/-- FREE VALUE (log entry 9): the hidden content of HACC while INIT waits, where `adler32` is another
function than rule R131's. -/
opaque Config.headerContent : Nat → Fin 65521 × Fin 65521

/-- FREE VALUE (log entry 3): the sink's answer to the n-th request it was ever sent, where State's
script of answers says nothing (rule R12: the answers belong to the sink). -/
opaque Config.sinkAnswer : Nat → SinkAnswer

/-- FREE VALUE (log entry 8): the hidden content of an Adler-32 accumulator between two commands
(rule R42; U8), within the bound of rule R38. -/
opaque Config.adlerContent : Path → Nat → Fin 65521 × Fin 65521

/-- FREE VALUE (log entry 8): the hidden content of a CRC-32 accumulator between two commands
(rule R42; U8). -/
opaque Config.crcContent : Path → Nat → Word

/-- The parameters of the machine after reset: nothing is known of them but rule R7. -/
def Config.params : Params where
  magic := Config.magic
  lzopVersion := Config.lzopVersion
  libVersion := Config.libVersion
  compatVersion := Config.compatVersion
  algoLzo1x := Config.algoLzo1x
  levelLzo1x := Config.levelLzo1x
  fAdler32D := BitVec.twoPow 32 (Config.flagPlace 0).val
  fAdler32C := BitVec.twoPow 32 (Config.flagPlace 1).val
  fCrc32D := BitVec.twoPow 32 (Config.flagPlace 2).val
  fCrc32C := BitVec.twoPow 32 (Config.flagPlace 3).val
  rawSize := Config.rawSize.val
  candSize := Config.candSize.val
  adlerFunction := Config.adlerFunction
  crcFunction := Config.crcFunction

/-- `FLAG_MASK` (rule R7): the four recognised flag bits. -/
def Params.flagMask (p : Params) : Word :=
  p.fAdler32D ||| p.fAdler32C ||| p.fCrc32D ||| p.fCrc32C

end Sys2Proof
end

