-- ==== Sys2Proof/Syntax.lean ====
section
/-! DEFINITION. The commands of LZOP-FE: one constructor per row of spec/opcode_table.json. -/

namespace Sys2Proof

/-- The three commands (rule R92). No command carries an operand (rules R90, R93): operands are the
values the operand registers hold when the command is issued. -/
inductive Instr where
  /-- INIT, 0x00000001: construction of the writer and the Header Encoder (rule R151). -/
  | init
  /-- WBLK, 0x00000002: the Block Writer (rule R171). -/
  | wblk
  /-- CLOSE, 0x00000003: the one-shot close (rule R201). -/
  | close
deriving DecidableEq, Repr

end Sys2Proof
end

