-- ==== Sys2Proof/WellFormed.lean ====
section
/-! DEFINITION. Well-formedness: of commands (nothing to check: rule R93) and of parameters (rule R7). -/

namespace Sys2Proof

/-- Every command is well-formed: "No immediate exists" and no field can hold an illegal value
(rules R90, R93). Written by constructor, so that a new command must be judged here. -/
def Instr.wellFormed : Instr → Bool
  | .init => true
  | .wblk => true
  | .close => true

/-- A flag mask "has exactly one bit set" (rule R7). -/
def oneBit (m : Word) : Bool :=
  (List.range 32).any fun k => m == BitVec.twoPow 32 k

/-- The constraints on the parameters that every rule assumes (rule R7), and the ranges of the two
buffer sizes (rule R6). That MAGIC has nine bytes is its type. -/
abbrev Params.wf (p : Params) : Prop :=
  oneBit p.fAdler32D = true ∧ oneBit p.fAdler32C = true ∧
  oneBit p.fCrc32D = true ∧ oneBit p.fCrc32C = true ∧
  [p.fAdler32D, p.fAdler32C, p.fCrc32D, p.fCrc32C].Nodup ∧
  p.rawSize ≤ 2 ^ 32 ∧ p.candSize ≤ 2 ^ 32

end Sys2Proof
end

