-- ==== Sys2Proof/Decode.lean ====
section
/-! DEFINITION. Decoding and encoding of the command word (30_encoding.md, section 1). -/

namespace Sys2Proof

/-- Field `zero`, bits 31:8 of a command word (rule R90). -/
def zeroField (w : Word) : BitVec 24 := w.extractLsb' 8 24

/-- Field `op`, bits 7:0 of a command word (rule R90). -/
def opField (w : Word) : Byte := w.extractLsb' 0 8

/-- Why a word spells no command (rule R91). Both are answered by `Reject(ERR_OPCODE)`. -/
inductive DecodeReject where
  /-- `w[31:8] != 0`: illegal whatever its `op` (rule R94). -/
  | zeroFieldSet
  /-- `op` is 0x00 or 0x04 .. 0xFF, reserved (rules R92, R94). -/
  | reservedOpcode
deriving DecidableEq, Repr

/-- Decoding (rule R91) by the opcode map (rule R92). It looks at nothing but the word. -/
def decode (w : Word) : Except DecodeReject Instr :=
  if zeroField w ≠ 0 then .error .zeroFieldSet
  else if opField w = 0x01 then .ok .init
  else if opField w = 0x02 then .ok .wblk
  else if opField w = 0x03 then .ok .close
  else .error .reservedOpcode

/-- The opcode of a command (rule R92). -/
def opcodeOf : Instr → Byte
  | .init => 0x01
  | .wblk => 0x02
  | .close => 0x03

/-- The word of a command: 24 zero bits and the opcode (rules R90, R92). -/
def encode (i : Instr) : Word := (opcodeOf i).zeroExtend 32

/-- The command the decoder reads from a table row's bits. A command is one 32-bit register write
(rule R95), no bytes in memory, so there is no byte order to lay out (rule R71; log entry 16). -/
def decodeTableWord (nbits w : Nat) : Option Instr :=
  (decode (BitVec.ofNat 32 (w % 2 ^ nbits))).toOption

end Sys2Proof
end

