-- ==== Sys2Proof/Machine/State.lean ====
section
/-! DEFINITION. The state of the machine as plain data, and its value after reset. The block's own
state is rule R20's list; the parameters, the two buffers, the sink and the host stand beside it as
the data a step reads (rules R14, R15). -/

namespace Sys2Proof.Machine

/-- The two input buffer spaces (rules R60, R61, R63). -/
inductive Space where
  | raw
  | cand
deriving DecidableEq, Repr

/-- The content of a buffer space: the bytes that differ from what an unlisted address reads as,
addresses strictly rising (`Memory.wf`, Machine/Ops.lean). -/
abbrev Memory := List Host.Cell

/-- What happens at the host port next: the two host operations (rule R220), reset, applied by the
platform (rule R280), and the host's filling of a buffer byte between commands (rules R61, R284). -/
inductive PortEvent where
  | hwrite (index : Fin 16) (value : Word)
  | hread (index : Fin 16)
  | reset
  | place (space : Space) (address : Nat) (byte : Byte)
deriving DecidableEq, Repr

/-- The three kinds of sink request (rule R66). -/
inductive SinkRequest where
  | data (byte : Byte)
  | flush
  | close
deriving DecidableEq, Repr

/-- The sink (rules R65 to R67): what it has accepted and what it will answer. -/
structure Sink where
  /-- The accepted trace: the requests answered OK since the last reset, oldest first (rule R67). -/
  accepted : List SinkRequest
  /-- What was accepted before the last reset: "Reset does not reach the sink" (rule R282). -/
  earlier : List SinkRequest
  /-- The MODEL's own field: the answers to the next requests; after them `Config.sinkAnswer`
  (log entry 3). -/
  script : List SinkAnswer
  /-- The MODEL's own field: how many answers were used so far (log entry 3). -/
  asked : Nat
deriving DecidableEq, Repr

/-- The host's side of the port, the MODEL's own (log entries 5 and 6). -/
structure HostPort where
  /-- What the host and the platform do next, oldest first. -/
  pending : List PortEvent
  /-- The values HREAD has returned, oldest first. -/
  returned : List Word
deriving DecidableEq, Repr

/-- The STATUS register (rule R34), field by field; bits 31:12 read as 0 and hold nothing. The word
the host reads is `Status.word` (Machine/Flags.lean). -/
structure Status where
  constructed : Bool
  closed : Bool
  fault : Bool
  rej : Bool
  cause : Nibble
  lastcc : Nibble
deriving DecidableEq, Repr

/-- The four checksum accumulators (rule R37). `none` is an absent accumulator: "A model may represent
an absent accumulator as no value at all" (rule R41). -/
structure AccFile where
  adlerD : Option AdlerAcc
  crcD : Option CrcAcc
  adlerC : Option AdlerAcc
  crcC : Option CrcAcc
deriving DecidableEq, Repr

/-- The completion codes (rule R241); their numbers are `CompletionCode.code`. -/
inductive CompletionCode where
  | ok
  | errIo
  | errFormat
  | errState
  | errFaulted
  | errOperand
  | errOpcode
deriving DecidableEq, Repr

/-- The lifecycle states (rule R31), a function of three STATUS bits (`State.lifecycle`). -/
inductive Lifecycle where
  | unconstructed
  | opened
  | closed
  | failed
deriving DecidableEq, Repr

/-- The whole machine. -/
structure State where
  /-- Operand registers x0 .. x7 (rule R21). -/
  x : Vector Word 8
  /-- STATUS (rule R34). -/
  status : Status
  /-- FLAGS, the latched Format Flags (rule R35). -/
  flags : Word
  /-- The accumulator file (rule R37). -/
  acc : AccFile
  /-- HACC, which exists only during INIT (rule R40). -/
  hacc : Option AdlerAcc
  /-- The MODEL's own field: a command was issued and the sink does not answer it (rule R301). -/
  waiting : Bool
  /-- The RAW space (rule R61). -/
  raw : Memory
  /-- The CAND space (rule R63). -/
  cand : Memory
  /-- The parameters (rule R6). -/
  params : Params
  sink : Sink
  host : HostPort
  /-- The MODEL's own field: the argument of the free accumulator contents (log entry 8). -/
  freeTick : Nat
deriving DecidableEq, Repr

/-- Why the machine stops with a fault. No command raises one: every failure the spec describes is a
next state (rules R243 to R245). -/
inductive Fault where
  /-- Raised by the host event `place` alone, at an address the buffer space does not have (rules R61,
  R63). Safe: such a byte does not exist. -/
  | placeOutside
deriving DecidableEq, Repr

/-- Why the machine gives an instruction no meaning. -/
inductive Refusal where
  /-- Raised by an arm of `exec` whose instruction has no meaning yet; there is none. Safe. -/
  | notModelled (mnemonic : String)
deriving DecidableEq, Repr

/-- The machine right after reset: rule R44's table for the block; no buffer byte listed, no request
accepted, nothing pending (log entries 1, 3, 5, 7, 8 and 13 for the fields the spec does not fix). -/
def State.reset : State where
  x := Vector.replicate 8 0
  status :=
    { constructed := false, closed := false, fault := false, rej := false, cause := 0, lastcc := 0 }
  flags := 0
  acc := { adlerD := none, crcD := none, adlerC := none, crcC := none }
  hacc := none
  waiting := false
  raw := []
  cand := []
  params := Config.params
  sink := { accepted := [], earlier := [], script := [], asked := 0 }
  host := { pending := [], returned := [] }
  freeTick := 0

end Sys2Proof.Machine
end

