-- ==== Sys2Proof/Machine/Ops.lean ====
section
/-! DEFINITION. The named operations every command is built of: reading a buffer space, sending
requests to the sink, and the ways a command ends (completion, rejection, fatal failure, waiting).
A fatal failure is this hardware's trap entry (rule R250); there is no return from it but reset
(rule R252), which stands in Machine/Port.lean. -/

namespace Sys2Proof.Machine

/-! ### Buffer spaces (20_memory.md, section 1) -/

/-- What an address reads as that nothing has been placed at. DESIGN CHOICE (unsafe, log entry 7): the
spec gives the buffers no initial content. -/
def Memory.unlisted : Byte := 0

/-- The canonical form of a buffer's content: addresses strictly rising, no entry equal to what an
unlisted address reads as. -/
abbrev Memory.wf (m : Memory) : Prop :=
  m.Pairwise (fun c d => c.1 < d.1) ∧ ∀ c ∈ m, c.2 ≠ Memory.unlisted

/-- Every listed address lies in a space of `size` bytes (rules R61, R63). -/
abbrev Memory.within (size : Nat) (m : Memory) : Prop := ∀ c ∈ m, c.1 < size

/-- The byte at an address. -/
def Memory.read : Memory → Nat → Byte
  | [], _ => Memory.unlisted
  | (k, b) :: rest, a => if k = a then b else Memory.read rest a

/-- The content with one byte put at an address, in canonical form. No command writes a buffer
(rule R60); only the host's `place` uses this. -/
def Memory.write : Memory → Nat → Byte → Memory
  | [], a, b => if b = Memory.unlisted then [] else [(a, b)]
  | (k, c) :: rest, a, b =>
    if a < k then
      if b = Memory.unlisted then (k, c) :: rest else (a, b) :: (k, c) :: rest
    else if a = k then
      if b = Memory.unlisted then rest else (a, b) :: rest
    else (k, c) :: Memory.write rest a b

/-- `MemRead(space, addr, n)`: the bytes at `addr` .. `addr + n - 1`, lowest address first, the sum in
unbounded integers (rule R62). Called only with a range that WBLK has admitted (rule R173). -/
def Memory.readRange (m : Memory) (addr : Nat) : Nat → List Byte
  | 0 => []
  | n + 1 => m.read addr :: Memory.readRange m (addr + 1) n

/-- The content of a buffer space. -/
def State.space (s : State) : Space → Memory
  | .raw => s.raw
  | .cand => s.cand

/-- The number of bytes of a buffer space: RAW_SIZE or CAND_SIZE (rule R6). -/
def spaceSize (p : Params) : Space → Nat
  | .raw => p.rawSize
  | .cand => p.candSize

/-- The state with one byte placed in a buffer space. -/
def State.placeByte (s : State) (sp : Space) (a : Nat) (b : Byte) : State :=
  match sp with
  | .raw => { s with raw := s.raw.write a b }
  | .cand => { s with cand := s.cand.write a b }

/-! ### The sink (20_memory.md, section 2) -/

/-- The answer the sink gives to the k-th request from now on (log entry 3). -/
def Sink.answerAt (k : Sink) (n : Nat) : SinkAnswer :=
  (k.script[n]?).getD (Config.sinkAnswer (k.asked + n))

/-- The sink with its next answer used up. -/
def Sink.pass (k : Sink) : Sink :=
  { k with script := k.script.tail, asked := k.asked + 1 }

/-- The sink after it answered a request OK: the request is the newest of the accepted trace
(rule R67). -/
def Sink.accept (k : Sink) (r : SinkRequest) : Sink :=
  { k.pass with accepted := k.accepted ++ [r] }

/-- Send requests one at a time, each after the previous one was answered (rules R66, R77). The first
that is not answered OK ends the sequence: the remaining requests are not sent (rule R68), and a
request answered ERR is not in the accepted trace (rule R67). The result is the last answer, and the
sink. -/
def Sink.send : List SinkRequest → Sink → SinkAnswer × Sink
  | [], k => (.ok, k)
  | r :: rest, k =>
    match k.answerAt 0 with
    | .ok => Sink.send rest (k.accept r)
    | .err => (.err, k.pass)
    | .silent => (.silent, k.pass)

/-- The requests of `emit(s)`: one `SinkData` for each byte, in order (rules R11, R68). -/
def emitRequests (bytes : List Byte) : List SinkRequest := bytes.map .data

/-! ### How a command ends (60_exceptions.md) -/

/-- The numbers of the completion codes (rule R241). -/
def CompletionCode.code : CompletionCode → Nibble
  | .ok => 0
  | .errIo => 1
  | .errFormat => 2
  | .errState => 3
  | .errFaulted => 4
  | .errOperand => 5
  | .errOpcode => 6

/-- "complete with cc = OK": only LASTCC is written (rules R240, R201). -/
def State.completeOk (s : State) : State :=
  { s with status := { s.status with lastcc := CompletionCode.ok.code } }

/-- `raise Reject(cc)`: LASTCC and the sticky REJ, nothing else (rule R245). -/
def State.reject (s : State) (cc : CompletionCode) : State :=
  { s with status := { s.status with rej := true, lastcc := cc.code } }

/-- The entry of a fatal failure: FAULT, CAUSE and LASTCC are written and nothing else; nothing is
saved and control goes nowhere (rules R243, R244, R250). -/
def State.raiseFatal (s : State) (cc : CompletionCode) : State :=
  { s with status := { s.status with fault := true, cause := cc.code, lastcc := cc.code } }

/-- `raise IOFault` (rule R243). -/
def State.raiseIoFault (s : State) : State := s.raiseFatal .errIo

/-- `raise FormatFault` (rule R244). -/
def State.raiseFormatFault (s : State) : State := s.raiseFatal .errFormat

/-- The command waits for an answer that does not come; "nothing but reset ends it" (rule R301; log
entry 4). LASTCC is not written, for the command has not completed (rule R240). -/
def State.wait (s : State) : State := { s with waiting := true }

/-- The admitted part of a command: its sink requests, then what it does when all were answered OK,
or IOFault at the first ERR (rules R68, R243), or waiting. `onWait` is what the command leaves behind
while it waits. -/
def State.transact (s : State) (reqs : List SinkRequest) (onOk onWait : State → State) : State :=
  match s.sink.send reqs with
  | (.ok, k) => (onOk { s with sink := k }).completeOk
  | (.err, k) => ({ s with sink := k } : State).raiseIoFault
  | (.silent, k) => (onWait { s with sink := k }).wait

end Sys2Proof.Machine
end

