-- ==== Sys2Proof/Machine/Operands.lean ====
section
/-! DEFINITION. The operands of the commands: whole operand registers, and the two fields INIT takes
out of x5 (rule R93). Nothing is sign- or zero-extended, scaled or shifted. -/

namespace Sys2Proof.Machine

/-- RAW_OFF, x[0] (rule R22). -/
def State.rawOff (s : State) : Word := s.x[0]

/-- RAW_LEN, x[1] (rule R23). -/
def State.rawLen (s : State) : Word := s.x[1]

/-- CAND_OFF, x[2] (rule R24). -/
def State.candOff (s : State) : Word := s.x[2]

/-- CAND_LEN, x[3] (rule R25). -/
def State.candLen (s : State) : Word := s.x[3]

/-- CFG_FLAGS, x[4] (rule R26). -/
def State.cfgFlags (s : State) : Word := s.x[4]

/-- CFG_ALGO, x[5] (rule R27). -/
def State.cfgAlgo (s : State) : Word := s.x[5]

/-- CFG_MODE, x[6] (rule R28). -/
def State.cfgMode (s : State) : Word := s.x[6]

/-- CFG_MTIME, x[7] (rule R29). -/
def State.cfgMtime (s : State) : Word := s.x[7]

/-- `algo = x[5][7:0]` (rules R27, R93). -/
def State.algo (s : State) : Byte := s.cfgAlgo.extractLsb' 0 8

/-- `level = x[5][15:8]` (rules R27, R93). -/
def State.level (s : State) : Byte := s.cfgAlgo.extractLsb' 8 8

/-- The largest length WBLK admits, 0x7FFFFFFF (rule R173). -/
abbrev maxLength : Nat := 0x7FFFFFFF

/-- The selection `comp`, "compressed chosen": unsigned 32-bit `cl < rl` (rule R174). -/
def compChosen (rl cl : Word) : Bool := decide (cl.toNat < rl.toNat)

/-- `comp` of the next WBLK (rule R174). -/
def State.comp (s : State) : Bool := compChosen s.rawLen s.candLen

/-- WBLK's operand admission fails (rule R173). The sums are of unbounded integers, and the candidate
range is tested only when compressed is chosen. -/
def State.operandsInadmissible (s : State) : Bool :=
  decide (s.rawLen.toNat > maxLength) || decide (s.candLen.toNat > maxLength) ||
  decide (s.rawOff.toNat + s.rawLen.toNat > s.params.rawSize) ||
  (s.comp && decide (s.candOff.toNat + s.candLen.toNat > s.params.candSize))

/-- The snapshot `raw = MemRead(RAW, x[0], x[1])` (rules R74, R171). -/
def State.rawBytes (s : State) : List Byte := s.raw.readRange s.rawOff.toNat s.rawLen.toNat

/-- The snapshot `cand = MemRead(CAND, x[2], x[3])`, taken when compressed is chosen; otherwise no
candidate byte is read (rules R63, R171). -/
def State.candBytes (s : State) : List Byte :=
  if s.comp then s.cand.readRange s.candOff.toNat s.candLen.toNat else []

end Sys2Proof.Machine
end

