-- ==== Sys2Proof/Machine/Flags.lean ====
section
/-! DEFINITION. STATUS as the host reads it, the lifecycle state, the Format Flag tests and the latch.
There is no carry, zero, sign or overflow flag (rule R32). -/

namespace Sys2Proof.Machine

/-- The 32-bit word STATUS reads as: bits 31:12 zero, LASTCC 11:8, CAUSE 7:4, REJ 3, FAULT 2, CLOSED 1,
CONSTRUCTED 0 (rule R34). -/
def Status.word (st : Status) : Word :=
  st.lastcc.zeroExtend 32 <<< 8 ||| st.cause.zeroExtend 32 <<< 4 |||
    (BitVec.ofBool st.rej).zeroExtend 32 <<< 3 ||| (BitVec.ofBool st.fault).zeroExtend 32 <<< 2 |||
    (BitVec.ofBool st.closed).zeroExtend 32 <<< 1 ||| (BitVec.ofBool st.constructed).zeroExtend 32

/-- The lifecycle state (rule R31). -/
def Status.lifecycle (st : Status) : Lifecycle :=
  if st.fault then .failed
  else if st.closed then .closed
  else if st.constructed then .opened
  else .unconstructed

/-- The lifecycle state of the machine (rule R31). -/
def State.lifecycle (s : State) : Lifecycle := s.status.lifecycle

/-- The flag test `flags & mask != 0` (rules R41, R143, R171). -/
def flagSet (flags mask : Word) : Bool := decide (flags &&& mask ≠ 0)

/-- The Adler-32 accumulator content made of two values within the bound of rule R38. -/
def boundedAdler (content : Fin 65521 × Fin 65521) : AdlerAcc :=
  { a := BitVec.ofNat 16 content.1.val, b := BitVec.ofNat 16 content.2.val }

/-- An Adler-32 content that nothing fixes, within the bound of rule R38 (log entry 8). -/
def freeAdler (path : Path) (tick : Nat) : AdlerAcc := boundedAdler (Config.adlerContent path tick)

/-- A CRC-32 content that nothing fixes (log entry 8). -/
def freeCrc (path : Path) (tick : Nat) : CrcAcc := { c := Config.crcContent path tick }

/-- The flag latch of INIT: `FLAGS <- x[4] & FLAG_MASK`, after which the accumulators whose flag is set
are present (rules R154, R41). Their content is hidden and unspecified (rule R42; log entry 8). -/
def State.latchFlags (s : State) : State :=
  let f := s.cfgFlags &&& s.params.flagMask
  { s with
    flags := f
    acc :=
      { adlerD := if flagSet f s.params.fAdler32D then some (freeAdler .d s.freeTick) else none
        crcD := if flagSet f s.params.fCrc32D then some (freeCrc .d s.freeTick) else none
        adlerC := if flagSet f s.params.fAdler32C then some (freeAdler .c s.freeTick) else none
        crcC := if flagSet f s.params.fCrc32C then some (freeCrc .c s.freeTick) else none }
    freeTick := s.freeTick + 1 }

end Sys2Proof.Machine
end

