-- ==== Sys2Proof/Machine/Checksum.lean ====
section
/-! DEFINITION. The checksum engine: the three micro-operations of an accumulator (rule R133), the two
reference checksum functions made of them (rules R131, R132, R134), the checksum functions the
parameters name (rule R6), and the use of the two paths by one WBLK (rules R136, R137). -/

namespace Sys2Proof.Machine

/-! ### Adler-32 -/

/-- 65521, "the largest prime below 2^16" (rule R131). -/
abbrev adlerModulus : Nat := 65521

/-- The bound of rule R38: `0 <= a, b < 65521`. -/
abbrev adlerInRange (acc : AdlerAcc) : Prop :=
  acc.a.toNat < adlerModulus ∧ acc.b.toNat < adlerModulus

/-- Micro-operation reset: `(a, b) = (1, 0)` (rules R38, R133). -/
def adlerReset : AdlerAcc := { a := 1, b := 0 }

/-- The loop body of rule R131 for one byte: `a <- (a + s[i]) mod 65521`, then
`b <- (b + a) mod 65521` with the new a, in unbounded integers. -/
def adlerStep (acc : AdlerAcc) (byte : Byte) : AdlerAcc :=
  let a := (acc.a.toNat + byte.toNat) % adlerModulus
  let b := (acc.b.toNat + a) % adlerModulus
  { a := BitVec.ofNat 16 a, b := BitVec.ofNat 16 b }

/-- Micro-operation update: the loop body over the bytes, in order (rule R133). -/
def adlerUpdate (acc : AdlerAcc) (bytes : List Byte) : AdlerAcc := bytes.foldl adlerStep acc

/-- Micro-operation read: `(b << 16) | a` (rules R38, R133). -/
def adlerRead (acc : AdlerAcc) : Word := acc.b.zeroExtend 32 <<< 16 ||| acc.a.zeroExtend 32

/-- `adler32(s)` (rule R131): reset, update, read (rule R134). -/
def adler32 (bytes : List Byte) : Word := adlerRead (adlerUpdate adlerReset bytes)

/-! ### CRC-32 -/

/-- The reflected polynomial 0xEDB88320 (rule R132). -/
def crcPolynomial : Word := 0xEDB88320

/-- Micro-operation reset: `c = 0xFFFFFFFF` (rules R39, R133). -/
def crcReset : CrcAcc := { c := 0xFFFFFFFF }

/-- One of the eight repetitions of rule R132: a logical right shift by one, and the polynomial when
bit 0 was 1. -/
def crcShift (c : Word) : Word :=
  if c.getLsbD 0 then (c >>> 1) ^^^ crcPolynomial else c >>> 1

/-- `crcShift` repeated. -/
def crcShifts : Nat → Word → Word
  | 0, c => c
  | n + 1, c => crcShifts n (crcShift c)

/-- The loop body of rule R132 for one byte: `c <- c ^ zext_32(s[i])`, then eight shifts. -/
def crcStep (acc : CrcAcc) (byte : Byte) : CrcAcc :=
  { c := crcShifts 8 (acc.c ^^^ byte.zeroExtend 32) }

/-- Micro-operation update: the loop body over the bytes, in order (rule R133). -/
def crcUpdate (acc : CrcAcc) (bytes : List Byte) : CrcAcc := bytes.foldl crcStep acc

/-- Micro-operation read: `c ^ 0xFFFFFFFF` (rules R39, R133). -/
def crcRead (acc : CrcAcc) : Word := acc.c ^^^ 0xFFFFFFFF

/-- `crc32(s)` (rule R132): reset, update, read (rule R134). -/
def crc32 (bytes : List Byte) : Word := crcRead (crcUpdate crcReset bytes)

/-! ### The checksum functions the parameters name -/

/-- Micro-operation update of another checksum function, over a running value. -/
def otherUpdate (index running : Nat) (bytes : List Byte) : Nat :=
  bytes.foldl (Config.otherStep index) running

/-- Another checksum function than rule R131's or R132's: reset, update, read, so that it has rule
R134's property (93_implementation_defined.md U19; log entry 2). -/
def otherChecksum (index : Nat) (bytes : List Byte) : Word :=
  Config.otherRead index (otherUpdate index (Config.otherReset index) bytes)

/-- The parameter `adler32` of rule R6: rule R131's function or another (decision D30). -/
def adler32Of (p : Params) (bytes : List Byte) : Word :=
  match p.adlerFunction with
  | .reference => adler32 bytes
  | .other index => otherChecksum index bytes

/-- The parameter `crc32` of rule R6: rule R132's function or another (decision D30). -/
def crc32Of (p : Params) (bytes : List Byte) : Word :=
  match p.crcFunction with
  | .reference => crc32 bytes
  | .other index => otherChecksum index bytes

/-! ### The two paths inside one WBLK -/

/-- What WBLK leaves in an accumulator it has reset, updated and read: a hidden content that nothing
fixes (rules R42, R141; log entry 8). An absent accumulator stays absent (rule R41). -/
def usedAdler (path : Path) (tick : Nat) (acc : Option AdlerAcc) : Option AdlerAcc :=
  acc.map fun _ => freeAdler path tick

/-- The same for a CRC-32 accumulator. -/
def usedCrc (path : Path) (tick : Nat) (acc : Option CrcAcc) : Option CrcAcc :=
  acc.map fun _ => freeCrc path tick

/-- The accumulators after WBLK used them: the D path always (rule R136); the C path only when
compressed is chosen, else it is idle and untouched (rule R137). -/
def State.usePaths (s : State) (comp : Bool) : State :=
  { s with
    acc :=
      { adlerD := usedAdler .d s.freeTick s.acc.adlerD
        crcD := usedCrc .d s.freeTick s.acc.crcD
        adlerC := if comp then usedAdler .c s.freeTick s.acc.adlerC else s.acc.adlerC
        crcC := if comp then usedCrc .c s.freeTick s.acc.crcC else s.acc.crcC }
    freeTick := s.freeTick + 1 }

end Sys2Proof.Machine
end

