-- ==== Sys2Proof/Machine/Wire.lean ====
section
/-! DEFINITION. The bytes on the wire: serialisation (rule R10), the Header Record (rules R98, R99),
the Block Record (rule R101) and the Stream Terminator (rule R105), as functions of their fields. -/

namespace Sys2Proof.Machine

/-- `u8(v)` (rule R10). -/
def u8 (v : Byte) : List Byte := [v]

/-- `be16(v)`: `v[15:8], v[7:0]` (rules R10, R70). -/
def be16 (v : Half) : List Byte := [v.extractLsb' 8 8, v.extractLsb' 0 8]

/-- `be32(v)`: `v[31:24], v[23:16], v[15:8], v[7:0]` (rules R10, R70). -/
def be32 (v : Word) : List Byte :=
  [v.extractLsb' 24 8, v.extractLsb' 16 8, v.extractLsb' 8 8, v.extractLsb' 0 8]

/-- The 25 header field bytes H, offsets 0 .. 24 (rules R98, R155): version, lib_version,
compat_version, algo, algo_level, flags, mode, mtime, gmtdiff (always 0), fname_len (always 0). -/
def headerFields (p : Params) (algo level : Byte) (flags mode mtime : Word) : List Byte :=
  be16 p.lzopVersion ++ be16 p.libVersion ++ be16 p.compatVersion ++ u8 algo ++ u8 level ++
    be32 flags ++ be32 mode ++ be32 mtime ++ be32 0 ++ u8 0

/-- The Header Record: H and its checksum, `adler32` over H alone (rules R99, R156). -/
def headerRecord (p : Params) (algo level : Byte) (flags mode mtime : Word) : List Byte :=
  headerFields p algo level flags mode mtime ++
    be32 (adler32Of p (headerFields p algo level flags mode mtime))

/-- A field that is present iff a condition holds (rule R101). -/
def fieldIf (present : Bool) (field : List Byte) : List Byte := if present then field else []

/-- `sl`, the stored length (rules R101, R175). -/
def storedLength (rl cl : Word) : Word := if compChosen rl cl then cl else rl

/-- The Block Record, its fields in wire order (rules R101, R135): the two lengths, the checksums over
the raw bytes, the checksums over the candidate bytes when compressed is chosen, the payload. -/
def blockRecord (p : Params) (flags rl cl : Word) (raw cand : List Byte) : List Byte :=
  be32 rl ++ be32 (storedLength rl cl) ++
    fieldIf (flagSet flags p.fAdler32D) (be32 (adler32Of p raw)) ++
    fieldIf (flagSet flags p.fCrc32D) (be32 (crc32Of p raw)) ++
    fieldIf (compChosen rl cl && flagSet flags p.fAdler32C) (be32 (adler32Of p cand)) ++
    fieldIf (compChosen rl cl && flagSet flags p.fCrc32C) (be32 (crc32Of p cand)) ++
    (if compChosen rl cl then cand else raw)

/-- The Stream Terminator, `be32(0)` (rule R105). -/
def terminator : List Byte := be32 0

end Sys2Proof.Machine
end

