-- ==== Sys2Proof/Machine/Close.lean ====
section
/-! DEFINITION. CLOSE (43_close_lifecycle.md). -/

namespace Sys2Proof.Machine

/-- The one-shot sequence of the first close: FLUSH, the four terminator bytes, CLOSE
(rules R201, R204). -/
def closeRequests : List SinkRequest := [.flush] ++ emitRequests terminator ++ [.close]

/-- The first close: CLOSED is set only after `SinkClose()` was answered OK (rule R203). -/
def State.emitClose (s : State) : State :=
  s.transact closeRequests
    (fun t => { t with status := { t.status with closed := true } })
    (fun t => t)

/-- What CLOSE does (rule R201). In state Closed it completes OK and does nothing else (rule R202). -/
def State.afterClose (s : State) : State :=
  if s.status.fault then s.reject .errFaulted
  else if !s.status.constructed then s.reject .errState
  else if s.status.closed then s.completeOk
  else s.emitClose

/-- CLOSE (rule R201). Every outcome of the command is a next state (rules R203, R250). -/
def execClose (s : State) : Host.Outcome State Fault Refusal := .next s.afterClose

end Sys2Proof.Machine
end

