-- ==== Sys2Proof/Machine/Init.lean ====
section
/-! DEFINITION. INIT (41_init_header.md). -/

namespace Sys2Proof.Machine

/-- The requests of an admitted INIT, in order: MAGIC, H, `be32(K)` (rule R157). -/
def State.initRequests (s : State) : List SinkRequest :=
  emitRequests (s.params.magic.toList ++
    headerRecord s.params s.algo s.level s.flags s.cfgMode s.cfgMtime)

/-- HACC after reset and update with the 25 header field bytes (rule R140). Where `adler32` is another
function than rule R131's, its hidden content is one that nothing fixes (log entry 9). -/
def State.headerAcc (s : State) : AdlerAcc :=
  match s.params.adlerFunction with
  | .reference =>
    adlerUpdate adlerReset (headerFields s.params s.algo s.level s.flags s.cfgMode s.cfgMtime)
  | .other _ => boundedAdler (Config.headerContent s.freeTick)

/-- INIT's emission, after the flags are latched: CONSTRUCTED is set after the last request was
answered OK (rule R157). While INIT waits, HACC exists (rule R40; log entry 9). -/
def State.emitHeader (s : State) : State :=
  s.transact s.initRequests
    (fun t => { t with status := { t.status with constructed := true } })
    (fun t => { t with hacc := some s.headerAcc })

/-- What INIT does (rule R151): admission by state (rule R152), the format check before the first sink
request (rule R153), the flag latch (rule R154), the emission. -/
def State.afterInit (s : State) : State :=
  if s.status.fault then s.reject .errFaulted
  else if s.status.constructed then s.reject .errState
  else if s.algo ≠ s.params.algoLzo1x ∨ s.level ≠ s.params.levelLzo1x then s.raiseFormatFault
  else s.latchFlags.emitHeader

/-- INIT (rule R151). Every outcome of the command is a next state (rules R158, R250). -/
def execInit (s : State) : Host.Outcome State Fault Refusal := .next s.afterInit

end Sys2Proof.Machine
end

