-- ==== Sys2Proof/Machine/Wblk.lean ====
section
/-! DEFINITION. WBLK (42_write_block.md). -/

namespace Sys2Proof.Machine

/-- The record WBLK emits for the chunk the operand registers name (rule R171). -/
def State.record (s : State) : List Byte :=
  blockRecord s.params s.flags s.rawLen s.candLen s.rawBytes s.candBytes

/-- WBLK's emission: one Block Record; the accumulators it uses are reset, updated and read on the way
(rules R171, R179). -/
def State.emitBlock (s : State) : State :=
  (s.usePaths s.comp).transact (emitRequests s.record) (fun t => t) (fun t => t)

/-- What WBLK does (rule R171): admission by state (rule R172), operand admission before the first sink
request (rule R173), the emission. -/
def State.afterWblk (s : State) : State :=
  if s.status.fault then s.reject .errFaulted
  else if !s.status.constructed || s.status.closed then s.reject .errState
  else if s.operandsInadmissible then s.reject .errOperand
  else s.emitBlock

/-- WBLK (rule R171). Every outcome of the command is a next state (rules R181, R250). -/
def execWblk (s : State) : Host.Outcome State Fault Refusal := .next s.afterWblk

end Sys2Proof.Machine
end

