-- ==== Sys2Proof/Machine/Port.lean ====
section
/-! DEFINITION. The host port (44_host_access.md) and the platform's reset (70_reset_and_hazards.md,
section 1): what each event does, and which event is taken next. -/

namespace Sys2Proof.Machine

/-- A write to CMD issues exactly one command, possibly a rejected one (rules R91, R223). Decoding
comes before every other condition (rule R249). -/
def issue (w : Word) (s : State) : Host.Outcome State Fault Refusal :=
  match decode w with
  | .ok i => exec i s
  | .error _ => .next (s.reject .errOpcode)

/-- `HWRITE(i, v)` (rule R221): an operand register (index 0 .. 7) is stored without any check; CMD
(index 8) issues a command; STATUS, FLAGS and the reserved indices ignore the write. -/
def hwrite (i : Fin 16) (v : Word) (s : State) : Host.Outcome State Fault Refusal :=
  if h : i.val < 8 then .next { s with x := s.x.set i.val v }
  else if i.val = 8 then issue v s
  else .next s

/-- The value `HREAD(i)` returns (rule R222): an operand register, STATUS (index 9), FLAGS (index 10),
and 0 for CMD and the reserved indices. -/
def State.portRead (s : State) (i : Fin 16) : Word :=
  if h : i.val < 8 then s.x[i.val]
  else if i.val = 9 then s.status.word
  else if i.val = 10 then s.flags
  else 0

/-- `HREAD(i)` (rule R222): "A read never changes any state" of the block; the returned value goes to
the host's record (log entry 6). -/
def hread (i : Fin 16) (s : State) : Host.Outcome State Fault Refusal :=
  .next { s with host := { s.host with returned := s.host.returned ++ [s.portRead i] } }

/-- Reset (rule R280): every piece of the block's state at its reset value (rule R44). Parameters and
buffers are not state of the block (rule R45); the sink is not reached (rule R282), but the accepted
trace is counted from here (rule R67). -/
def State.applyReset (s : State) : State :=
  { State.reset with
    params := s.params
    raw := s.raw
    cand := s.cand
    sink := { s.sink with accepted := [], earlier := s.sink.earlier ++ s.sink.accepted }
    host := s.host
    freeTick := s.freeTick }

/-- The host places a byte in a buffer space (rules R61, R63, R284); an address the space does not have
stops the machine (log entry 7). -/
def place (sp : Space) (a : Nat) (b : Byte) (s : State) : Host.Outcome State Fault Refusal :=
  if a < spaceSize s.params sp then .next (s.placeByte sp a b) else .fault .placeOutside

/-- What one event of the port does. -/
def runEvent (e : PortEvent) (s : State) : Host.Outcome State Fault Refusal :=
  match e with
  | .hwrite i v => hwrite i v s
  | .hread i => hread i s
  | .reset => .next s.applyReset
  | .place sp a b => place sp a b s

/-- The state with a new list of pending events. -/
def State.withPending (s : State) (es : List PortEvent) : State :=
  { s with host := { s.host with pending := es } }

/-- Take the next event of the port. The block is idle, holding its state, until there is one
(rules R281, R257). While a command waits for the sink the host is blocked and only reset is taken
(rules R224, R301; log entry 4). -/
def takeEvent (s : State) : Host.Outcome State Fault Refusal :=
  match s.waiting, s.host.pending with
  | _, [] => .next s
  | false, e :: es => runEvent e (s.withPending es)
  | true, .reset :: es => .next (s.withPending es).applyReset
  | true, _ :: _ => .next s

/-- The machine about to issue a command word: the host's next operation is the write of that word to
CMD, and no earlier command is waiting. -/
def State.aboutToIssue (s : State) (w : Word) : State :=
  { s with waiting := false, host := { s.host with pending := .hwrite 8 w :: s.host.pending } }

end Sys2Proof.Machine
end

