-- ==== Sys2Proof/Machine/Step.lean ====
section
/-! DEFINITION. One step of the machine: one event of the host port, a whole command included
(rules R12, R224). -/

namespace Sys2Proof.Machine

/-- One step (`takeEvent`, Machine/Port.lean). -/
def step (s : State) : Host.Outcome State Fault Refusal := takeEvent s

/-- The state whose next step issues the command word given by a table row's bits. The block has no
program (rule R45): a command arrives as one write to CMD (rule R30; log entry 5). -/
def State.withFetchWord (s : State) (nbits w : Nat) : State :=
  s.aboutToIssue (BitVec.ofNat 32 (w % 2 ^ nbits))

end Sys2Proof.Machine
end

