-- ==== Sys2Proof/Safety.lean ====
section
/-! DEFINITION. The terms the statements use: the invariants of the block, the shape of the stream
(rules R16, R96), what a sink must do for a command to end (rule R301), and reachability. -/

namespace Sys2Proof.Safety

open Sys2Proof.Machine

/-! ### The sink's behaviour -/

/-- `SINK_ANSWERS` (rule R301; D31) for the next `n` requests: the sink answers each of them. A premise
of statements, never part of the step. -/
def SinkAnswers (k : Sink) (n : Nat) : Prop := ∀ j < n, k.answerAt j ≠ .silent

/-- The number of requests a command makes when it is admitted and every answer is OK: MAGIC, H and its
checksum (rule R157); the bytes of the record (rule R171); FLUSH, four bytes and CLOSE (rule R201). -/
def requestCount (i : Instr) (s : State) : Nat :=
  match i with
  | .init => 38
  | .wblk => s.record.length
  | .close => 6

/-- The sink answers OK to the next `n` requests. -/
def AnswersOk (k : Sink) (n : Nat) : Prop := ∀ j < n, k.answerAt j = .ok

/-- The sink answers OK to the next `n` requests and then gives answer `a`. -/
def AnswersThen (k : Sink) (n : Nat) (a : SinkAnswer) : Prop := AnswersOk k n ∧ k.answerAt n = a

/-- The sink after it answered `n` more requests and accepted `reqs` of them. -/
def sinkAfter (k : Sink) (reqs : List SinkRequest) (n : Nat) : Sink :=
  { k with accepted := k.accepted ++ reqs, script := k.script.drop n, asked := k.asked + n }

/-! ### The shape of the stream (rules R16, R96) -/

/-- A Block Record (rule R101) of some admitted chunk: lengths up to 0x7FFFFFFF, raw and, when
compressed is chosen, candidate bytes of those lengths. -/
def IsBlockRecord (p : Params) (flags : Word) (bytes : List Byte) : Prop :=
  ∃ (rl cl : Word) (raw cand : List Byte),
    rl.toNat ≤ 0x7FFFFFFF ∧ cl.toNat ≤ 0x7FFFFFFF ∧ raw.length = rl.toNat ∧
    (cl.toNat < rl.toNat → cand.length = cl.toNat) ∧
    bytes = blockRecord p flags rl cl raw cand

/-- MAGIC, the Header Record, then zero or more Block Records: an open stream (rule R96). -/
def IsOpenStream (p : Params) (flags : Word) (trace : List SinkRequest) : Prop :=
  ∃ (mode mtime : Word) (records : List (List Byte)),
    (∀ r ∈ records, IsBlockRecord p flags r) ∧
    trace = (p.magic.toList ++ headerRecord p p.algoLzo1x p.levelLzo1x flags mode mtime ++
      records.flatten).map .data

/-- A complete stream: an open stream, one FLUSH, the four terminator bytes, one CLOSE (rule R16). -/
def IsCompleteStream (p : Params) (flags : Word) (trace : List SinkRequest) : Prop :=
  ∃ body, IsOpenStream p flags body ∧
    trace = body ++ [.flush, .data 0, .data 0, .data 0, .data 0, .close]

/-! ### Invariants -/

/-- What STATUS, FLAGS and HACC can hold: the reachable combinations of rule R31; CAUSE 0 while
FAULT = 0 and otherwise 1 or 2 (rule R34); no reserved completion code (rule R241); no FLAGS bit
outside FLAG_MASK (rule R35); no FLAGS before INIT (rule R154); HACC only during INIT (rule R40); a
command waits only in a state that admits one. -/
structure RegistersOk (s : State) : Prop where
  closed_constructed : s.status.closed = true → s.status.constructed = true
  closed_healthy : s.status.closed = true → s.status.fault = false
  healthy_cause : s.status.fault = false → s.status.cause = 0
  failed_cause : s.status.fault = true → s.status.cause = 1 ∨ s.status.cause = 2
  lastcc_defined : s.status.lastcc.toNat ≤ 6
  rejected_recorded : 3 ≤ s.status.lastcc.toNat → s.status.rej = true
  flags_masked : s.flags &&& ~~~ s.params.flagMask = 0
  flags_unlatched : s.lifecycle = .unconstructed → s.waiting = false → s.flags = 0
  format_unlatched : s.status.cause = 2 → s.status.constructed = false ∧ s.flags = 0
  hacc_transient : s.hacc ≠ none → s.waiting = true ∧ s.status.constructed = false
  waiting_admitted : s.waiting = true → s.status.fault = false ∧ s.status.closed = false

/-- An accumulator is present iff its flag bit is set in FLAGS (rule R41), and a present Adler-32
accumulator keeps the bound of rule R38. -/
structure AccumulatorsOk (s : State) : Prop where
  adlerD_present : s.acc.adlerD.isSome = flagSet s.flags s.params.fAdler32D
  crcD_present : s.acc.crcD.isSome = flagSet s.flags s.params.fCrc32D
  adlerC_present : s.acc.adlerC.isSome = flagSet s.flags s.params.fAdler32C
  crcC_present : s.acc.crcC.isSome = flagSet s.flags s.params.fCrc32C
  adlerD_inRange : ∀ a ∈ s.acc.adlerD, adlerInRange a
  adlerC_inRange : ∀ a ∈ s.acc.adlerC, adlerInRange a
  hacc_inRange : ∀ a ∈ s.hacc, adlerInRange a

/-- The buffers are in canonical form and hold no byte outside their space (rules R61, R63). -/
structure BuffersOk (s : State) : Prop where
  raw_wf : s.raw.wf
  cand_wf : s.cand.wf
  raw_within : s.raw.within s.params.rawSize
  cand_within : s.cand.within s.params.candSize

/-- What the accepted trace is in each lifecycle state: empty before INIT, an open stream in Open, a
complete stream in Closed, and always the beginning of a complete stream, a proper one unless Closed
(rules R16, R67, R251). -/
structure TraceOk (s : State) : Prop where
  unconstructed_empty :
    s.lifecycle = .unconstructed → s.waiting = false → s.sink.accepted = []
  opened_stream :
    s.lifecycle = .opened → s.waiting = false → IsOpenStream s.params s.flags s.sink.accepted
  closed_stream : s.lifecycle = .closed → IsCompleteStream s.params s.flags s.sink.accepted
  prefix_stream : ∃ flags whole, flags &&& ~~~ s.params.flagMask = 0 ∧
    IsCompleteStream s.params flags whole ∧ s.sink.accepted <+: whole ∧
    (s.status.closed = false → s.sink.accepted ≠ whole)
  /-- While a command waits, the state before it is still what the lifecycle bits say. -/
  waiting_stream : s.waiting = true → s.status.constructed = true →
    ∃ body, IsOpenStream s.params s.flags body ∧ body <+: s.sink.accepted
  /-- The trace of a stream whose INIT failed on its format is empty (rule R153). -/
  format_empty : s.status.cause = 2 → s.sink.accepted = []

/-- Everything above, and the constraints on the parameters (rule R7). -/
structure Invariant (s : State) : Prop where
  params_wf : s.params.wf
  registers : RegistersOk s
  accumulators : AccumulatorsOk s
  buffers : BuffersOk s
  trace : TraceOk s

/-! ### Runs -/

/-- The block's own state is as reset leaves it (rule R44), whatever the parameters, the buffers, the
sink's answers and the host's plans. -/
def JustReset (s : State) : Prop :=
  s.x = Vector.replicate 8 0 ∧ s.status.word = 0 ∧ s.flags = 0 ∧
  s.acc = { adlerD := none, crcD := none, adlerC := none, crcC := none } ∧ s.hacc = none ∧
  s.waiting = false ∧ s.sink.accepted = [] ∧ s.params.wf ∧ BuffersOk s

/-- What a run from `s` can reach. -/
inductive Reaches (s : State) : State → Prop where
  | start : Reaches s s
  | step {t u : State} : Reaches s t → Machine.step t = .next u → Reaches s u

end Sys2Proof.Safety
end

