-- ==== Sys2Proof/Certificates/Slice0/Obligations.lean ====
section
/-! DEFINITION. The statements for the provers. Rule numbers are those of spec/. -/

open Sys2Proof Sys2Proof.Machine Sys2Proof.Safety

/-! ### Encoding (30_encoding.md) -/

/-- Worked words of the opcode map, and words next to them (rules R92, R94; V50 to V54). -/
def Obligations.CommandWordsDecode : Prop :=
  decode 0x00000001 = .ok .init ∧ decode 0x00000002 = .ok .wblk ∧ decode 0x00000003 = .ok .close ∧
  decode 0x00000000 = .error .reservedOpcode ∧ decode 0x00000004 = .error .reservedOpcode ∧
  decode 0x000000FF = .error .reservedOpcode ∧ decode 0x00000101 = .error .zeroFieldSet ∧
  decode 0x80000002 = .error .zeroFieldSet

/-- Rule R92: "Because the mask is all ones, a word is a command iff it equals one of 1, 2, 3." -/
def Obligations.WordIsCommandIffInOpcodeMap : Prop :=
  ∀ w : Word,
    (decode w = .ok .init ↔ w = 1) ∧ (decode w = .ok .wblk ↔ w = 2) ∧
    (decode w = .ok .close ↔ w = 3) ∧
    ((∃ e, decode w = .error e) ↔ (w ≠ 1 ∧ w ≠ 2 ∧ w ≠ 3))

/-- Decoding inverts encoding, and encoding inverts decoding: no bit of a command word is dropped. -/
def Obligations.DecodeAndEncodeAgree : Prop :=
  (∀ i : Instr, i.wellFormed = true → decode (encode i) = .ok i) ∧
  (∀ (w : Word) (i : Instr), decode w = .ok i → encode i = w)

/-! ### One step and the host port (44_host_access.md) -/

/-- A write to CMD of the word of a well-formed command runs that command (rules R91, R223). The step
adds only this: the write leaves the list of pending events. -/
def Obligations.StepRunsDecodedCommand : Prop :=
  ∀ (s : State) (w : Word) (i : Instr) (es : List PortEvent),
    s.waiting = false → s.host.pending = .hwrite 8 w :: es → decode w = .ok i →
    i.wellFormed = true →
    step s = exec i { s with host := { s.host with pending := es } }

/-- Rule R94: every reserved or illegal word is rejected with ERR_OPCODE and changes nothing but
STATUS.LASTCC and STATUS.REJ. -/
def Obligations.ReservedWordIsRejected : Prop :=
  ∀ (s : State) (w : Word) (es : List PortEvent),
    s.waiting = false → s.host.pending = .hwrite 8 w :: es →
    (w.extractLsb' 8 24 ≠ 0 ∨ w.extractLsb' 0 8 = 0 ∨ 4 ≤ (w.extractLsb' 0 8).toNat) →
    step s = .next { s with
      host := { s.host with pending := es }
      status := { s.status with rej := true, lastcc := 6 } }

/-- Rule R221, HWRITE in full. -/
def Obligations.HostWriteRule : Prop :=
  ∀ (s : State) (i : Fin 16) (v : Word) (es : List PortEvent),
    s.waiting = false → s.host.pending = .hwrite i v :: es →
    (∀ h : i.val < 8,
      step s = .next { s with
        x := s.x.set i.val v h, host := { s.host with pending := es } }) ∧
    (i.val = 8 → ∀ c, decode v = .ok c →
      step s = exec c { s with host := { s.host with pending := es } }) ∧
    (i.val = 8 → ∀ e, decode v = .error e →
      step s = .next { s with
        host := { s.host with pending := es }
        status := { s.status with rej := true, lastcc := 6 } }) ∧
    (9 ≤ i.val → step s = .next { s with host := { s.host with pending := es } })

/-- Rule R222, HREAD in full: the value returned, and that nothing of the block changes. -/
def Obligations.HostReadRule : Prop :=
  ∀ (s : State) (i : Fin 16) (es : List PortEvent),
    s.waiting = false → s.host.pending = .hread i :: es →
    ∃ v : Word,
      step s = .next { s with host := { pending := es, returned := s.host.returned ++ [v] } } ∧
      (∀ h : i.val < 8, v = s.x[i.val]) ∧ (i.val = 8 → v = 0) ∧
      (i.val = 9 → v = s.status.word) ∧ (i.val = 10 → v = s.flags) ∧ (11 ≤ i.val → v = 0)

/-- Rule R34's field table: where each field of STATUS stands in the word the host reads. -/
def Obligations.StatusWordLayout : Prop :=
  ∀ st : Status,
    st.word.getLsbD 0 = st.constructed ∧ st.word.getLsbD 1 = st.closed ∧
    st.word.getLsbD 2 = st.fault ∧ st.word.getLsbD 3 = st.rej ∧
    st.word.extractLsb' 4 4 = st.cause ∧ st.word.extractLsb' 8 4 = st.lastcc ∧
    st.word.extractLsb' 12 20 = 0

/-- An operand register reads back the last value written, and no other one changes
(rules R21, R222; R228). -/
def Obligations.OperandRegisterReadsBack : Prop :=
  ∀ (s : State) (i : Fin 16) (v : Word) (es : List PortEvent) (h : i.val < 8),
    s.waiting = false → s.host.pending = .hwrite i v :: .hread i :: es →
    ∃ t u : State, step s = .next t ∧ step t = .next u ∧
      u.host.returned = s.host.returned ++ [v] ∧ u.x[i.val] = v ∧
      ∀ j (hj : j < 8), j ≠ i.val → u.x[j] = s.x[j]

/-- The idle block holds its state (rules R281, R257): the model's reading of "does nothing until the
host writes CMD" (log entry 5). -/
def Obligations.IdleBlockHoldsState : Prop :=
  ∀ s : State, s.host.pending = [] → step s = .next s

/-! ### Reset (70_reset_and_hazards.md) -/

/-- Rule R44: what reset leaves. An accumulator's content is unspecified because it is absent. -/
def Obligations.ResetStateValues : Prop :=
  (∀ i (h : i < 8), State.reset.x[i] = 0) ∧
  State.reset.status.constructed = false ∧ State.reset.status.closed = false ∧
  State.reset.status.fault = false ∧ State.reset.status.rej = false ∧
  State.reset.status.cause = 0 ∧ State.reset.status.lastcc = 0 ∧ State.reset.flags = 0 ∧
  State.reset.acc.adlerD = none ∧ State.reset.acc.crcD = none ∧
  State.reset.acc.adlerC = none ∧ State.reset.acc.crcC = none ∧ State.reset.hacc = none ∧
  State.reset.lifecycle = .unconstructed

/-- Reset in any state, waiting or not: every piece of the block's state takes its reset value (rule
R44), the sink is sent nothing and keeps what it accepted (rule R282), parameters and buffers stay
(rule R45), and the accepted trace is counted anew (rule R67). -/
def Obligations.ResetEvent : Prop :=
  ∀ (s : State) (es : List PortEvent), s.host.pending = .reset :: es →
    ∃ t : State, step s = .next t ∧
      t.x = State.reset.x ∧ t.status = State.reset.status ∧ t.flags = State.reset.flags ∧
      t.acc = State.reset.acc ∧ t.hacc = State.reset.hacc ∧ t.waiting = false ∧
      t.params = s.params ∧ (∀ sp a, (t.space sp).read a = (s.space sp).read a) ∧
      t.sink = { s.sink with accepted := [], earlier := s.sink.earlier ++ s.sink.accepted } ∧
      t.host = { s.host with pending := es }

/-! ### Buffer spaces (20_memory.md) -/

/-- `MemRead(space, addr, n)` is the `n` bytes at `addr` .. `addr + n - 1`, in order (rule R62). -/
def Obligations.MemReadIsByteRange : Prop :=
  ∀ (m : Memory) (addr n : Nat),
    (m.readRange addr n).length = n ∧
    ∀ i < n, (m.readRange addr n)[i]? = some (m.read (addr + i))

/-- The host places a byte at an address of a space: reading it gives that byte, every other byte of
both spaces reads as before, and nothing else changes. The event is the model's form of rule R61's
"set up by the host before the command" (log entry 7). -/
def Obligations.PlacedByteReadsBack : Prop :=
  ∀ (s : State) (sp : Space) (a : Nat) (b : Byte) (es : List PortEvent),
    s.waiting = false → s.host.pending = .place sp a b :: es → BuffersOk s →
    a < spaceSize s.params sp →
    ∃ t : State, step s = .next t ∧ (t.space sp).read a = b ∧
      (∀ sp' a', (sp', a') ≠ (sp, a) → (t.space sp').read a' = (s.space sp').read a') ∧
      BuffersOk t ∧
      t = { s with raw := t.raw, cand := t.cand, host := { s.host with pending := es } }

/-- Placing a byte outside the space stops the machine: RAW has addresses 0 .. RAW_SIZE-1 and CAND
0 .. CAND_SIZE-1 (rules R61, R63); that the machine stops there is the model's choice
(log entry 7). -/
def Obligations.PlacingOutsideSpaceFaults : Prop :=
  ∀ (s : State) (sp : Space) (a : Nat) (b : Byte) (es : List PortEvent),
    s.waiting = false → s.host.pending = .place sp a b :: es → spaceSize s.params sp ≤ a →
    step s = .fault .placeOutside

/-! ### The checksum engine (40_checksum_engine.md) -/

/-- Rule R134: reset, update, read is the checksum, and updating in two pieces is the checksum of the
concatenation, for the reference functions and for every other function a parameter of rule R6 can
name. -/
def Obligations.ChecksumsAreIncremental : Prop :=
  (∀ s, adlerRead (adlerUpdate adlerReset s) = adler32 s) ∧
  (∀ s, crcRead (crcUpdate crcReset s) = crc32 s) ∧
  (∀ s₁ s₂, adlerRead (adlerUpdate (adlerUpdate adlerReset s₁) s₂) = adler32 (s₁ ++ s₂)) ∧
  (∀ s₁ s₂, crcRead (crcUpdate (crcUpdate crcReset s₁) s₂) = crc32 (s₁ ++ s₂)) ∧
  (∀ k s, Config.otherRead k (otherUpdate k (Config.otherReset k) s) = otherChecksum k s) ∧
  (∀ k s₁ s₂, Config.otherRead k (otherUpdate k (otherUpdate k (Config.otherReset k) s₁) s₂) =
    otherChecksum k (s₁ ++ s₂))

/-- Adler-32 in closed form: a is one plus the sum of the bytes, b the sum of all the values a takes,
both modulo 65521 (from the loop of rule R131). -/
def Obligations.Adler32ClosedForm : Prop :=
  ∀ s : List Byte,
    let n := s.length
    let a := (1 + ((List.range n).map fun i => (s.getD i 0).toNat).sum) % 65521
    let b := (n + ((List.range n).map fun i => (n - i) * (s.getD i 0).toNat).sum) % 65521
    adler32 s = BitVec.ofNat 32 (b * 65536 + a)

/-- CRC-32 tells apart two messages that differ in exactly one byte (from the loop of rule R132). -/
def Obligations.Crc32DetectsSingleByteChange : Prop :=
  ∀ (s₁ s₂ : List Byte) (b b' : Byte), b ≠ b' →
    crc32 (s₁ ++ [b] ++ s₂) ≠ crc32 (s₁ ++ [b'] ++ s₂)

/-- The parameters `adler32` and `crc32`, where they name the reference functions, are the functions of
rules R131 and R132: checksums of the empty sequence (rule R142) and the rules' worked examples. -/
def Obligations.ChecksumWorkedExamples : Prop :=
  ∀ p : Params, p.adlerFunction = .reference → p.crcFunction = .reference →
    (∀ s, adler32Of p s = adler32 s) ∧ (∀ s, crc32Of p s = crc32 s) ∧
    adler32Of p [] = 0x00000001 ∧ crc32Of p [] = 0x00000000 ∧
    adler32Of p [0x41, 0x41, 0x41, 0x41] = 0x028E0105 ∧
    crc32Of p [0x41, 0x41, 0x41, 0x41] = 0x9B0D08F1 ∧
    crc32Of p [0x31, 0x32, 0x33, 0x34, 0x35, 0x36, 0x37, 0x38, 0x39] = 0xCBF43926

/-! ### The sink (20_memory.md, section 2) -/

/-- Rule R68, `emit(s)`: with every answer OK the accepted trace grows by exactly the bytes of s, in
order; at the first ERR it has grown by the bytes before it, and the remaining bytes are not
requested. -/
def Obligations.EmitGrowsTraceOrStopsAtFirstError : Prop :=
  ∀ (k : Sink) (bytes : List Byte),
    (AnswersOk k bytes.length →
      k.send (emitRequests bytes) = (.ok,
        { k with
          accepted := k.accepted ++ bytes.map .data
          script := k.script.drop bytes.length
          asked := k.asked + bytes.length })) ∧
    (∀ n < bytes.length, AnswersThen k n .err →
      k.send (emitRequests bytes) = (.err,
        { k with
          accepted := k.accepted ++ (bytes.take n).map .data
          script := k.script.drop (n + 1)
          asked := k.asked + (n + 1) }))

/-! ### INIT (41_init_header.md) -/

/-- Rule R99: the four bytes after the 25 header field bytes are their `adler32`, big-endian, whatever
function that parameter is. -/
def Obligations.HeaderChecksumCoversFields : Prop :=
  ∀ (p : Params) (algo level : Byte) (flags mode mtime : Word),
    (headerRecord p algo level flags mode mtime).length = 29 ∧
    (headerRecord p algo level flags mode mtime).drop 25 =
      be32 (adler32Of p ((headerRecord p algo level flags mode mtime).take 25))

/-- Rule R98's table: each header field at its offset, with its value and width. -/
def Obligations.HeaderRecordLayout : Prop :=
  ∀ (p : Params) (algo level : Byte) (flags mode mtime : Word),
    let h := headerRecord p algo level flags mode mtime
    h.take 2 = be16 p.lzopVersion ∧ (h.drop 2).take 2 = be16 p.libVersion ∧
    (h.drop 4).take 2 = be16 p.compatVersion ∧ (h.drop 6).take 1 = [algo] ∧
    (h.drop 7).take 1 = [level] ∧ (h.drop 8).take 4 = be32 flags ∧
    (h.drop 12).take 4 = be32 mode ∧ (h.drop 16).take 4 = be32 mtime ∧
    (h.drop 20).take 4 = [0, 0, 0, 0] ∧ (h.drop 24).take 1 = [0] ∧ h.length = 29

/-- INIT completes (rule R151): in a block neither failed nor constructed, with the legal algorithm and
level, and a sink that answers OK to its 38 requests, it emits MAGIC, the 25 header field bytes and
their `adler32`, latches FLAGS, makes exactly the accumulators present whose flag is set, sets
CONSTRUCTED, and changes nothing else but the hidden accumulator contents (log entry 8). -/
def Obligations.InitCompletes : Prop :=
  ∀ s : State, s.status.fault = false → s.status.constructed = false →
    s.x[5].extractLsb' 0 8 = s.params.algoLzo1x → s.x[5].extractLsb' 8 8 = s.params.levelLzo1x →
    AnswersOk s.sink 38 →
    let f := s.x[4] &&& s.params.flagMask
    let H := be16 s.params.lzopVersion ++ be16 s.params.libVersion ++ be16 s.params.compatVersion ++
      u8 s.params.algoLzo1x ++ u8 s.params.levelLzo1x ++ be32 f ++ be32 s.x[6] ++ be32 s.x[7] ++
      be32 0 ++ u8 0
    let bytes := s.params.magic.toList ++ H ++ be32 (adler32Of s.params H)
    ∃ (acc : AccFile) (tick : Nat),
      exec .init s = .next { s with
        status := { s.status with constructed := true, lastcc := 0 }
        flags := f, acc := acc, freeTick := tick
        sink := sinkAfter s.sink (bytes.map .data) 38 } ∧
      acc.adlerD.isSome = flagSet f s.params.fAdler32D ∧
      acc.crcD.isSome = flagSet f s.params.fCrc32D ∧
      acc.adlerC.isSome = flagSet f s.params.fAdler32C ∧
      acc.crcC.isSome = flagSet f s.params.fCrc32C

/-- Rule R158, the exceptions of INIT, row by row: each with its condition (an earlier row excludes a
later one, rule R249) and with everything it leaves behind. In the last row the k-th request is
answered ERR, k = 1 .. 38; the first k-1 of the 38 bytes are accepted, and FLAGS is latched. -/
def Obligations.InitExceptions : Prop :=
  ∀ s : State,
    (s.status.fault = true → exec .init s =
      .next { s with status := { s.status with rej := true, lastcc := 4 } }) ∧
    (s.status.fault = false → s.status.constructed = true → exec .init s =
      .next { s with status := { s.status with rej := true, lastcc := 3 } }) ∧
    (s.status.fault = false → s.status.constructed = false →
      (s.x[5].extractLsb' 0 8 ≠ s.params.algoLzo1x ∨
        s.x[5].extractLsb' 8 8 ≠ s.params.levelLzo1x) →
      exec .init s =
        .next { s with status := { s.status with fault := true, cause := 2, lastcc := 2 } }) ∧
    (s.status.fault = false → s.status.constructed = false →
      s.x[5].extractLsb' 0 8 = s.params.algoLzo1x →
      s.x[5].extractLsb' 8 8 = s.params.levelLzo1x →
      ∀ k, 1 ≤ k → k ≤ 38 → AnswersThen s.sink (k - 1) .err →
      let f := s.x[4] &&& s.params.flagMask
      let bytes := s.params.magic.toList ++
        headerRecord s.params s.params.algoLzo1x s.params.levelLzo1x f s.x[6] s.x[7]
      ∃ (acc : AccFile) (tick : Nat), exec .init s = .next { s with
        status := { s.status with fault := true, cause := 1, lastcc := 1 }
        flags := f, acc := acc, freeTick := tick
        sink := sinkAfter s.sink ((bytes.take (k - 1)).map .data) k })

/-! ### WBLK (42_write_block.md) -/

/-- WBLK completes: in an open stream, with admitted operands (rules R172, R173) and a sink that answers
OK to every byte, it emits the Block Record of rule R101's table, field by field, and changes nothing
else but LASTCC and the hidden accumulator contents, which stay present or absent as they were. -/
def Obligations.WblkCompletes : Prop :=
  ∀ s : State, s.status.fault = false → s.status.constructed = true → s.status.closed = false →
    s.x[1].toNat ≤ 0x7FFFFFFF → s.x[3].toNat ≤ 0x7FFFFFFF →
    s.x[0].toNat + s.x[1].toNat ≤ s.params.rawSize →
    (s.x[3].toNat < s.x[1].toNat → s.x[2].toNat + s.x[3].toNat ≤ s.params.candSize) →
    let comp := decide (s.x[3].toNat < s.x[1].toNat)
    let raw := s.raw.readRange s.x[0].toNat s.x[1].toNat
    let cand := s.cand.readRange s.x[2].toNat s.x[3].toNat
    let bytes := be32 s.x[1] ++ be32 (if comp then s.x[3] else s.x[1]) ++
      (if s.flags &&& s.params.fAdler32D ≠ 0 then be32 (adler32Of s.params raw) else []) ++
      (if s.flags &&& s.params.fCrc32D ≠ 0 then be32 (crc32Of s.params raw) else []) ++
      (if s.flags &&& s.params.fAdler32C ≠ 0 ∧ comp = true then be32 (adler32Of s.params cand) else []) ++
      (if s.flags &&& s.params.fCrc32C ≠ 0 ∧ comp = true then be32 (crc32Of s.params cand) else []) ++
      (if comp then cand else raw)
    AnswersOk s.sink bytes.length →
    ∃ (acc : AccFile) (tick : Nat),
      exec .wblk s = .next { s with
        status := { s.status with lastcc := 0 }, acc := acc, freeTick := tick
        sink := sinkAfter s.sink (bytes.map .data) bytes.length } ∧
      acc.adlerD.isSome = s.acc.adlerD.isSome ∧ acc.crcD.isSome = s.acc.crcD.isSome ∧
      acc.adlerC.isSome = s.acc.adlerC.isSome ∧ acc.crcC.isSome = s.acc.crcC.isSome ∧
      (comp = false → acc.adlerC = s.acc.adlerC ∧ acc.crcC = s.acc.crcC)

/-- Rule R173: in an open stream WBLK is rejected with ERR_OPERAND and no other effect exactly when one
of (a) to (d) holds, the sums in unbounded integers. -/
def Obligations.WblkOperandAdmission : Prop :=
  ∀ s : State, s.status.fault = false → s.status.constructed = true → s.status.closed = false →
    (exec .wblk s = .next { s with status := { s.status with rej := true, lastcc := 5 } } ↔
      (s.x[1].toNat > 0x7FFFFFFF ∨ s.x[3].toNat > 0x7FFFFFFF ∨
        s.x[0].toNat + s.x[1].toNat > s.params.rawSize ∨
        (s.x[3].toNat < s.x[1].toNat ∧ s.x[2].toNat + s.x[3].toNat > s.params.candSize)))

/-- Rule R181, the exceptions of WBLK, row by row (an earlier row excludes a later one, rule R249). In
the last row the k-th request of the record is answered ERR, k = 1 .. record length, and the first
k-1 bytes of the record are accepted. WBLK raises no FormatFault: it never writes 2 to CAUSE. -/
def Obligations.WblkExceptions : Prop :=
  ∀ s : State,
    let bad := s.x[1].toNat > 0x7FFFFFFF ∨ s.x[3].toNat > 0x7FFFFFFF ∨
      s.x[0].toNat + s.x[1].toNat > s.params.rawSize ∨
      (s.x[3].toNat < s.x[1].toNat ∧ s.x[2].toNat + s.x[3].toNat > s.params.candSize)
    let bytes := blockRecord s.params s.flags s.x[1] s.x[3]
      (s.raw.readRange s.x[0].toNat s.x[1].toNat) (s.cand.readRange s.x[2].toNat s.x[3].toNat)
    (s.status.fault = true → exec .wblk s =
      .next { s with status := { s.status with rej := true, lastcc := 4 } }) ∧
    (s.status.fault = false → (s.status.constructed = false ∨ s.status.closed = true) →
      exec .wblk s = .next { s with status := { s.status with rej := true, lastcc := 3 } }) ∧
    (s.status.fault = false → s.status.constructed = true → s.status.closed = false → bad →
      exec .wblk s = .next { s with status := { s.status with rej := true, lastcc := 5 } }) ∧
    (s.status.fault = false → s.status.constructed = true → s.status.closed = false → ¬ bad →
      ∀ k, 1 ≤ k → k ≤ bytes.length → AnswersThen s.sink (k - 1) .err →
      ∃ (acc : AccFile) (tick : Nat), exec .wblk s = .next { s with
        status := { s.status with fault := true, cause := 1, lastcc := 1 }
        acc := acc, freeTick := tick
        sink := sinkAfter s.sink ((bytes.take (k - 1)).map .data) k }) ∧
    (∀ t, exec .wblk s = .next t → t.status.cause = s.status.cause ∨ t.status.cause = 1)

/-- Rule R104: the length of a Block Record, `nD` and `nC` being numbers of bits set in FLAGS under the
two pairs of masks; and its minimum, 8 bytes. -/
def Obligations.BlockRecordLength : Prop :=
  ∀ (p : Params) (flags rl cl : Word) (raw cand : List Byte),
    p.wf → raw.length = rl.toNat → (cl.toNat < rl.toNat → cand.length = cl.toNat) →
    let ones (v : Word) := (List.range 32).countP fun i => v.getLsbD i
    let nD := ones (flags &&& (p.fAdler32D ||| p.fCrc32D))
    let nC := ones (flags &&& (p.fAdler32C ||| p.fCrc32C))
    let comp := decide (cl.toNat < rl.toNat)
    let sl := if comp then cl.toNat else rl.toNat
    (blockRecord p flags rl cl raw cand).length = 8 + 4 * nD + (if comp then 4 * nC else 0) + sl ∧
    8 ≤ (blockRecord p flags rl cl raw cand).length

/-- Rules R175 and R103: `be32(rl)` is the first field, `be32(sl)` the second, with `sl` = cl if
compressed is chosen and `sl` = rl if not; `sl` never exceeds `rl`, and equals it exactly when raw is
chosen, that is when the payload is the raw bytes. -/
def Obligations.StoredLengthMarksRawPayload : Prop :=
  ∀ (p : Params) (flags rl cl : Word) (raw cand : List Byte),
    let sl := if cl.toNat < rl.toNat then cl else rl
    let r := blockRecord p flags rl cl raw cand
    r.take 4 = be32 rl ∧ (r.drop 4).take 4 = be32 sl ∧ sl.toNat ≤ rl.toNat ∧
    (sl = rl ↔ ¬ cl.toNat < rl.toNat) ∧ (sl = rl → raw <:+ r) ∧ (sl ≠ rl → cand <:+ r)

/-- When raw is chosen no candidate byte is read and the candidate offset is not used (rules R63, R137,
R173): with any other CAND content and any other CAND_OFF, WBLK does the same. -/
def Obligations.CandidateUnreadWhenRawChosen : Prop :=
  ∀ (s t : State) (m : Memory) (v : Word), ¬ s.x[3].toNat < s.x[1].toNat →
    exec .wblk s = .next t →
    exec .wblk { s with cand := m, x := s.x.set 2 v } =
      .next { t with cand := m, x := t.x.set 2 v }

/-- Two successive WBLK with the same operands and buffers emit identical records: nothing carries over
from block to block (rules R179, R182 h). -/
def Obligations.RepeatedWblkRepeatsRecord : Prop :=
  ∀ s : State, s.status.fault = false → s.status.constructed = true → s.status.closed = false →
    s.operandsInadmissible = false → AnswersOk s.sink (2 * s.record.length) →
    ∃ (t u : State) (bytes : List Byte), 8 ≤ bytes.length ∧
      exec .wblk s = .next t ∧ exec .wblk t = .next u ∧
      t.sink.accepted = s.sink.accepted ++ bytes.map .data ∧
      u.sink.accepted = t.sink.accepted ++ bytes.map .data

/-- The record of an empty chunk: raw is chosen whatever the candidate length, both lengths are zero,
the decompressed-path checksums are those of the empty sequence, and there is no payload (rule R182 c).
With the reference functions these checksums are 1 and 0 (rule R142). -/
def Obligations.EmptyChunkRecord : Prop :=
  ∀ (p : Params) (flags cl : Word) (cand : List Byte),
    blockRecord p flags 0 cl [] cand =
      [0, 0, 0, 0, 0, 0, 0, 0] ++
        (if flags &&& p.fAdler32D ≠ 0 then be32 (adler32Of p []) else []) ++
        (if flags &&& p.fCrc32D ≠ 0 then be32 (crc32Of p []) else []) ∧
    (p.adlerFunction = .reference → be32 (adler32Of p []) = [0, 0, 0, 1]) ∧
    (p.crcFunction = .reference → be32 (crc32Of p []) = [0, 0, 0, 0])

/-! ### CLOSE (43_close_lifecycle.md) -/

/-- The first CLOSE completes (rule R201): in an open stream, with a sink that answers OK to its six
requests, the accepted trace grows by FLUSH, four zero bytes and CLOSE, CLOSED is set, and nothing
else changes. -/
def Obligations.CloseCompletes : Prop :=
  ∀ s : State, s.status.fault = false → s.status.constructed = true → s.status.closed = false →
    AnswersOk s.sink 6 →
    exec .close s = .next { s with
      status := { s.status with closed := true, lastcc := 0 }
      sink := sinkAfter s.sink [.flush, .data 0, .data 0, .data 0, .data 0, .close] 6 }

/-- Rule R202: CLOSE in state Closed does nothing but set LASTCC to OK; and no command makes a request in
Closed or leaves it, so CLOSED goes from 0 to 1 once. -/
def Obligations.RepeatedCloseIsNoOp : Prop :=
  ∀ s : State, s.status.fault = false → s.status.constructed = true → s.status.closed = true →
    exec .close s = .next { s with status := { s.status with lastcc := 0 } } ∧
    ∀ (i : Instr) (t : State), exec i s = .next t → t.lifecycle = .closed ∧ t.sink = s.sink

/-- Rule R203, the exceptions of CLOSE, row by row: request 1 is the flush, 2 to 5 the terminator
bytes, 6 the sink close; the requests before the failing one are accepted and CLOSED stays 0. CLOSED is
set only if all six were answered OK. -/
def Obligations.CloseExceptions : Prop :=
  ∀ s : State,
    (s.status.fault = true → exec .close s =
      .next { s with status := { s.status with rej := true, lastcc := 4 } }) ∧
    (s.status.fault = false → s.status.constructed = false → exec .close s =
      .next { s with status := { s.status with rej := true, lastcc := 3 } }) ∧
    (s.status.fault = false → s.status.constructed = true → s.status.closed = false →
      (AnswersThen s.sink 0 .err → exec .close s = .next { s with
        status := { s.status with fault := true, cause := 1, lastcc := 1 }
        sink := sinkAfter s.sink [] 1 }) ∧
      (∀ k, 1 ≤ k → k ≤ 4 → AnswersThen s.sink k .err → exec .close s = .next { s with
        status := { s.status with fault := true, cause := 1, lastcc := 1 }
        sink := sinkAfter s.sink (.flush :: List.replicate (k - 1) (.data 0)) (k + 1) }) ∧
      (AnswersThen s.sink 5 .err → exec .close s = .next { s with
        status := { s.status with fault := true, cause := 1, lastcc := 1 }
        sink := sinkAfter s.sink [.flush, .data 0, .data 0, .data 0, .data 0] 6 }) ∧
      (∀ t, exec .close s = .next t → t.status.closed = true → AnswersOk s.sink 6))

/-! ### All commands -/

/-- Rule R226: no command writes an operand register. -/
def Obligations.CommandsLeaveOperandRegisters : Prop :=
  ∀ (i : Instr) (s t : State), exec i s = .next t → ∀ j (h : j < 8), t.x[j] = s.x[j]

/-- The frame of the three commands. All: operand registers, every byte of both buffers, parameters,
host side, what the sink accepted before the last reset, and the accepted trace so far, stay. WBLK and
CLOSE leave FLAGS and the presence of every accumulator; CLOSE leaves the accumulators and the free
tick; HACC changes only when INIT waits; CONSTRUCTED is set only by INIT and CLOSED only by CLOSE, and
neither is ever cleared; FAULT and REJ are never cleared; CAUSE changes only with FAULT. -/
def Obligations.CommandsFrame : Prop :=
  ∀ (i : Instr) (s t : State), exec i s = .next t →
    t.x = s.x ∧ (∀ sp a, (t.space sp).read a = (s.space sp).read a) ∧ t.params = s.params ∧
    t.host = s.host ∧ t.sink.earlier = s.sink.earlier ∧ s.sink.accepted <+: t.sink.accepted ∧
    (i ≠ .init → t.flags = s.flags ∧ t.acc.adlerD.isSome = s.acc.adlerD.isSome ∧
      t.acc.crcD.isSome = s.acc.crcD.isSome ∧ t.acc.adlerC.isSome = s.acc.adlerC.isSome ∧
      t.acc.crcC.isSome = s.acc.crcC.isSome ∧ t.hacc = s.hacc ∧
      t.status.constructed = s.status.constructed) ∧
    (i = .close → t.acc = s.acc ∧ t.freeTick = s.freeTick) ∧
    (i ≠ .close → t.status.closed = s.status.closed) ∧
    (t.waiting = false → t.hacc = s.hacc) ∧
    (s.status.constructed = true → t.status.constructed = true ∧ t.flags = s.flags) ∧
    (s.status.closed = true → t.status.closed = true) ∧
    (s.status.fault = true → t.status.fault = true) ∧
    (s.status.rej = true → t.status.rej = true) ∧
    (t.status.fault = s.status.fault → t.status.cause = s.status.cause)

/-- Rule R245: a command that completes with ERR_STATE, ERR_FAULTED or ERR_OPERAND, and a word rejected
with ERR_OPCODE, change LASTCC and REJ and nothing else. A command that completes otherwise succeeded
or raised IOFault, or was INIT and raised FormatFault before any request. -/
def Obligations.RejectionChangesOnlyLastccAndRej : Prop :=
  (∀ (i : Instr) (s t : State), exec i s = .next t → t.waiting = false →
    3 ≤ t.status.lastcc.toNat →
    t = { s with status := { s.status with rej := true, lastcc := t.status.lastcc } }) ∧
  (∀ (i : Instr) (s t : State), exec i s = .next t → t.waiting = false →
    t.status.lastcc.toNat < 3 →
    (t.status.lastcc = 0 ∧ t.status.fault = s.status.fault) ∨
    (t.status.lastcc = 1 ∧ t.status.fault = true ∧ t.status.cause = 1) ∨
    (i = .init ∧ t.status.lastcc = 2 ∧ t.status.fault = true ∧ t.status.cause = 2 ∧
      t.sink = s.sink)) ∧
  (∀ (w : Word) (s : State) (e : DecodeReject), decode w = .error e →
    issue w s = .next { s with status := { s.status with rej := true, lastcc := 6 } })

/-- Rule R246: which completion code each command can complete with, ERR_STATE only from the states in
brackets, and that it can complete with each of them. (A command that waits for a silent sink has not
completed. The premise on CLOSED is the part of the invariant that rules out CLOSED without
CONSTRUCTED.) -/
def Obligations.CompletionCodesPerCommand : Prop :=
  let codes : Instr → List Nibble := fun i => match i with
    | .init => [0, 1, 2, 3, 4]
    | .wblk => [0, 1, 3, 4, 5]
    | .close => [0, 1, 3, 4]
  let stateErrorIn : Instr → List Lifecycle := fun i => match i with
    | .init => [.opened, .closed]
    | .wblk => [.unconstructed, .closed]
    | .close => [.unconstructed]
  (∀ (i : Instr) (s t : State), (s.status.closed = true → s.status.constructed = true) →
    exec i s = .next t → t.waiting = false →
    t.status.lastcc ∈ codes i ∧ (t.status.lastcc = 3 → s.lifecycle ∈ stateErrorIn i)) ∧
  (∀ (i : Instr), ∀ cc ∈ codes i, ∃ s t : State, Invariant s ∧ s.waiting = false ∧
    exec i s = .next t ∧ t.waiting = false ∧ t.status.lastcc = cc) ∧
  (∀ (i : Instr), ∀ l ∈ stateErrorIn i, ∃ s t : State, Invariant s ∧ s.waiting = false ∧
    s.lifecycle = l ∧ exec i s = .next t ∧ t.status.lastcc = 3) ∧
  (∀ (w : Word) (s t : State) (e : DecodeReject), decode w = .error e → issue w s = .next t →
    t.status.lastcc = 6)

/-- Rule R205, the transition table, every command in every state. The last clauses are the column of
reserved words, and reset; a sink that never answers is excluded (rule R301). -/
def Obligations.LifecycleTransitionTable : Prop :=
  ∀ (s : State), s.waiting = false → (∀ i, SinkAnswers s.sink (requestCount i s)) →
    (s.status.closed = true → s.status.constructed = true) →
    let goes (i : Instr) (cc : Nibble) (l : Lifecycle) : Prop :=
      ∃ t, exec i s = .next t ∧ t.status.lastcc = cc ∧ t.lifecycle = l
    let refused (i : Instr) (cc : Nibble) : Prop := goes i cc s.lifecycle ∧
      exec i s = .next { s with status := { s.status with rej := true, lastcc := cc } }
    (s.lifecycle = .unconstructed →
      (goes .init 0 .opened ∨ goes .init 2 .failed ∨ goes .init 1 .failed) ∧
      refused .wblk 3 ∧ refused .close 3) ∧
    (s.lifecycle = .opened →
      refused .init 3 ∧
      (goes .wblk 0 .opened ∨ refused .wblk 5 ∨ goes .wblk 1 .failed) ∧
      (goes .close 0 .closed ∨ goes .close 1 .failed)) ∧
    (s.lifecycle = .closed →
      refused .init 3 ∧ refused .wblk 3 ∧
      exec .close s = .next { s with status := { s.status with lastcc := 0 } }) ∧
    (s.lifecycle = .failed → refused .init 4 ∧ refused .wblk 4 ∧ refused .close 4) ∧
    (∀ w e, decode w = .error e → ∃ t, issue w s = .next t ∧ t.lifecycle = s.lifecycle ∧
      t.status.lastcc = 6 ∧ t.status.rej = true) ∧
    (∀ es, s.host.pending = .reset :: es → ∃ t, step s = .next t ∧ t.lifecycle = .unconstructed)

/-- Rule R249: of several conditions that hold for one CMD write, the first is reported: not a command;
FAULT; a state that does not admit the command; WBLK's operand tests and INIT's format test; the first
request answered ERR. With none of them, and in a CLOSE in state Closed, the command completes OK. -/
def Obligations.FirstConditionIsReported : Prop :=
  ∀ (w : Word) (s t : State), issue w s = .next t → t.waiting = false →
    let wrongState : Prop :=
      (w = 1 ∧ s.status.constructed = true) ∨
      (w = 2 ∧ (s.status.constructed = false ∨ s.status.closed = true)) ∨
      (w = 3 ∧ s.status.constructed = false)
    (w ≠ 1 ∧ w ≠ 2 ∧ w ≠ 3 → t.status.lastcc = 6) ∧
    (w = 1 ∨ w = 2 ∨ w = 3 →
      (s.status.fault = true → t.status.lastcc = 4) ∧
      (s.status.fault = false → wrongState → t.status.lastcc = 3) ∧
      (s.status.fault = false → ¬ wrongState →
        (w = 2 → s.operandsInadmissible = true → t.status.lastcc = 5) ∧
        (w = 1 → (s.algo ≠ s.params.algoLzo1x ∨ s.level ≠ s.params.levelLzo1x) →
          t.status.lastcc = 2) ∧
        (w = 3 → s.status.closed = true → t.status.lastcc = 0) ∧
        (¬ (w = 2 ∧ s.operandsInadmissible = true) →
          ¬ (w = 1 ∧ (s.algo ≠ s.params.algoLzo1x ∨ s.level ≠ s.params.levelLzo1x)) →
          ¬ (w = 3 ∧ s.status.closed = true) →
          ∀ i, decode w = .ok i →
            (AnswersOk s.sink (requestCount i s) → t.status.lastcc = 0) ∧
            (∀ n < requestCount i s, AnswersThen s.sink n .err → t.status.lastcc = 1))))

/-- State Failed (rule R258): every command is rejected with ERR_FAULTED and every reserved word with
ERR_OPCODE, with no sink request; operand registers are still written, and every register is still
read. -/
def Obligations.FailedStateRejectsEveryCommand : Prop :=
  ∀ s : State, s.status.fault = true →
    (∀ i : Instr, exec i s =
      .next { s with status := { s.status with rej := true, lastcc := 4 } }) ∧
    (∀ w e, decode w = .error e → issue w s =
      .next { s with status := { s.status with rej := true, lastcc := 6 } }) ∧
    (∀ (i : Fin 16) (v : Word) (h : i.val < 8),
      runEvent (.hwrite i v) s = .next { s with x := s.x.set i.val v h }) ∧
    (∀ i : Fin 16, ∃ v, runEvent (.hread i) s =
      .next { s with host := { s.host with returned := s.host.returned ++ [v] } } ∧
      (i.val = 9 → v = s.status.word) ∧ (i.val = 10 → v = s.flags))

/-- Rule R69: once CLOSED or FAULT is set, no step but reset sends a request, and the bit stays set. The
premise is the part of the invariant that rules out CLOSED without CONSTRUCTED (rule R31). -/
def Obligations.NoRequestAfterCloseOrFailure : Prop :=
  ∀ s t : State, (s.status.closed = true → s.status.constructed = true) →
    step s = .next t → (∀ es, s.host.pending ≠ .reset :: es) →
    (s.status.closed = true → t.sink = s.sink ∧ t.status.closed = true) ∧
    (s.status.fault = true → t.sink = s.sink ∧ t.status.fault = true)

/-- FAULT, CAUSE once FAULT is set, and REJ are cleared by nothing but reset (rules R252, R247, R259),
and FLAGS, once INIT has completed, is changed by nothing but reset (rules R35, R295). -/
def Obligations.StickyUntilReset : Prop :=
  ∀ s t : State, step s = .next t → (∀ es, s.host.pending ≠ .reset :: es) →
    (s.status.fault = true → t.status.fault = true ∧ t.status.cause = s.status.cause) ∧
    (s.status.rej = true → t.status.rej = true) ∧
    (s.status.constructed = true → t.status.constructed = true ∧ t.flags = s.flags)

/-- The accepted trace only grows between resets, and a reset moves it, whole, behind what the sink
accepted before (rules R67, R77, R282). -/
def Obligations.AcceptedTraceOnlyGrows : Prop :=
  ∀ s t : State, step s = .next t →
    (s.sink.earlier ++ s.sink.accepted) <+: (t.sink.earlier ++ t.sink.accepted) ∧
    ((∀ es, s.host.pending ≠ .reset :: es) →
      t.sink.earlier = s.sink.earlier ∧ s.sink.accepted <+: t.sink.accepted)

/-- Rule R301 under its premise SINK_ANSWERS, for as many requests as the command can make: every
command completes, with one of the completion codes 0 to 5, nothing is left waiting, and the answers it
used are the first of those the sink was going to give. -/
def Obligations.CommandsCompleteIfSinkAnswers : Prop :=
  ∀ (i : Instr) (s : State), s.waiting = false → SinkAnswers s.sink (requestCount i s) →
    ∃ t, exec i s = .next t ∧ t.waiting = false ∧ t.status.lastcc.toNat ≤ 5 ∧
      ∃ n ≤ requestCount i s, ∀ j, t.sink.answerAt j = s.sink.answerAt (n + j)

/-- A sink that never answers (rule R301). First part: whenever a command is left waiting, the sink gave
no answer to some request of the command, the requests before it were accepted, the command has not
completed (STATUS stays), and the machine then stays as it is until reset. Other parts: INIT, WBLK and
CLOSE, admitted, are left waiting when their request number n, counted from 0, is the first that is not
answered OK and it is not answered at all; exactly the n requests before it are accepted, and STATUS is
as it was (INIT has latched FLAGS, rule R154). The form of the waiting state is the model's choice
(log entry 4). -/
def Obligations.SilentSinkBlocksUntilReset : Prop :=
  (∀ (i : Instr) (s t : State), s.waiting = false → exec i s = .next t → t.waiting = true →
    t.status = s.status ∧
    (∃ n < requestCount i s, AnswersThen s.sink n .silent ∧
      s.sink.accepted <+: t.sink.accepted ∧
      t.sink.accepted.length = s.sink.accepted.length + n) ∧
    ((∀ es, t.host.pending ≠ .reset :: es) → step t = .next t)) ∧
  (∀ s : State, s.status.fault = false → s.status.constructed = false →
    s.x[5].extractLsb' 0 8 = s.params.algoLzo1x → s.x[5].extractLsb' 8 8 = s.params.levelLzo1x →
    ∀ n < requestCount .init s, AnswersThen s.sink n .silent →
    let f := s.x[4] &&& s.params.flagMask
    let bytes := s.params.magic.toList ++
      headerRecord s.params s.params.algoLzo1x s.params.levelLzo1x f s.x[6] s.x[7]
    ∃ (acc : AccFile) (hacc : Option AdlerAcc) (tick : Nat), exec .init s = .next { s with
      waiting := true, flags := f, acc := acc, hacc := hacc, freeTick := tick
      sink := sinkAfter s.sink ((bytes.take n).map .data) (n + 1) }) ∧
  (∀ s : State, s.status.fault = false → s.status.constructed = true → s.status.closed = false →
    s.operandsInadmissible = false →
    ∀ n < requestCount .wblk s, AnswersThen s.sink n .silent →
    let bytes := blockRecord s.params s.flags s.x[1] s.x[3]
      (s.raw.readRange s.x[0].toNat s.x[1].toNat) (s.cand.readRange s.x[2].toNat s.x[3].toNat)
    ∃ (acc : AccFile) (tick : Nat), exec .wblk s = .next { s with
      waiting := true, acc := acc, freeTick := tick
      sink := sinkAfter s.sink ((bytes.take n).map .data) (n + 1) }) ∧
  (∀ s : State, s.status.fault = false → s.status.constructed = true → s.status.closed = false →
    ∀ n < requestCount .close s, AnswersThen s.sink n .silent →
    exec .close s = .next { s with
      waiting := true
      sink := sinkAfter s.sink
        ([SinkRequest.flush, .data 0, .data 0, .data 0, .data 0, .close].take n) (n + 1) })

/-! ### Invariants and whole streams -/

/-- The invariant holds at reset (rules R7, R31, R35, R41, R44). -/
def Obligations.ResetSatisfiesInvariant : Prop := Invariant State.reset

/-- Every step keeps the invariant: rule R31's reachable combinations, CAUSE and LASTCC (R34, R241),
FLAGS within FLAG_MASK (R35), the accumulators' presence (R41), the buffers' form, and the accepted
trace's shape in every lifecycle state (R16, R96, R251). -/
def Obligations.StepKeepsInvariant : Prop :=
  ∀ s t : State, Invariant s → step s = .next t → Invariant t

/-- Rule R16: in every run after reset, whatever the parameters, the buffers, the sink's answers and
the host's operations, a state with CLOSED = 1 and FAULT = 0 has a complete stream as its accepted
trace, and a state that is not Closed has none. -/
def Obligations.ClosedMeansCompleteStream : Prop :=
  ∀ s t : State, JustReset s → Reaches s t →
    (t.status.closed = true → t.status.fault = false ∧
      IsCompleteStream t.params t.flags t.sink.accepted) ∧
    (t.status.closed = false → ∀ flags, ¬ IsCompleteStream t.params flags t.sink.accepted)

/-- One run, one terminator: after reset no reachable accepted trace holds more than one CLOSE or more
than one FLUSH request, and it holds a CLOSE exactly when CLOSED is set (rules R202, R203; T5). -/
def Obligations.AtMostOneSinkClose : Prop :=
  ∀ s t : State, JustReset s → Reaches s t →
    t.sink.accepted.count .flush ≤ 1 ∧
    t.sink.accepted.count .close = if t.status.closed then 1 else 0
end

