-- ==== Sys2Proof/Laws/State.lean ====
section
/-! SUPPORT. One lemma per field per named update of State, true by rfl, so that no later proof unfolds
a record update. -/

namespace Sys2Proof.Machine

/-! ### `State.completeOk` -/

@[simp] theorem State.completeOk_x (s : State) : s.completeOk.x = s.x := rfl
@[simp] theorem State.completeOk_status (s : State) :
    s.completeOk.status = { s.status with lastcc := CompletionCode.ok.code } := rfl
@[simp] theorem State.completeOk_flags (s : State) : s.completeOk.flags = s.flags := rfl
@[simp] theorem State.completeOk_acc (s : State) : s.completeOk.acc = s.acc := rfl
@[simp] theorem State.completeOk_hacc (s : State) : s.completeOk.hacc = s.hacc := rfl
@[simp] theorem State.completeOk_waiting (s : State) : s.completeOk.waiting = s.waiting := rfl
@[simp] theorem State.completeOk_raw (s : State) : s.completeOk.raw = s.raw := rfl
@[simp] theorem State.completeOk_cand (s : State) : s.completeOk.cand = s.cand := rfl
@[simp] theorem State.completeOk_params (s : State) : s.completeOk.params = s.params := rfl
@[simp] theorem State.completeOk_sink (s : State) : s.completeOk.sink = s.sink := rfl
@[simp] theorem State.completeOk_host (s : State) : s.completeOk.host = s.host := rfl
@[simp] theorem State.completeOk_freeTick (s : State) : s.completeOk.freeTick = s.freeTick := rfl

/-! ### `State.reject` -/

@[simp] theorem State.reject_x (s : State) (cc : CompletionCode) : (s.reject cc).x = s.x := rfl
@[simp] theorem State.reject_status (s : State) (cc : CompletionCode) :
    (s.reject cc).status = { s.status with rej := true, lastcc := cc.code } := rfl
@[simp] theorem State.reject_flags (s : State) (cc : CompletionCode) :
    (s.reject cc).flags = s.flags := rfl
@[simp] theorem State.reject_acc (s : State) (cc : CompletionCode) :
    (s.reject cc).acc = s.acc := rfl
@[simp] theorem State.reject_hacc (s : State) (cc : CompletionCode) :
    (s.reject cc).hacc = s.hacc := rfl
@[simp] theorem State.reject_waiting (s : State) (cc : CompletionCode) :
    (s.reject cc).waiting = s.waiting := rfl
@[simp] theorem State.reject_raw (s : State) (cc : CompletionCode) :
    (s.reject cc).raw = s.raw := rfl
@[simp] theorem State.reject_cand (s : State) (cc : CompletionCode) :
    (s.reject cc).cand = s.cand := rfl
@[simp] theorem State.reject_params (s : State) (cc : CompletionCode) :
    (s.reject cc).params = s.params := rfl
@[simp] theorem State.reject_sink (s : State) (cc : CompletionCode) :
    (s.reject cc).sink = s.sink := rfl
@[simp] theorem State.reject_host (s : State) (cc : CompletionCode) :
    (s.reject cc).host = s.host := rfl
@[simp] theorem State.reject_freeTick (s : State) (cc : CompletionCode) :
    (s.reject cc).freeTick = s.freeTick := rfl

/-! ### `State.raiseFatal` -/

@[simp] theorem State.raiseFatal_x (s : State) (cc : CompletionCode) :
    (s.raiseFatal cc).x = s.x := rfl
@[simp] theorem State.raiseFatal_status (s : State) (cc : CompletionCode) :
    (s.raiseFatal cc).status = { s.status with fault := true, cause := cc.code, lastcc := cc.code } := rfl
@[simp] theorem State.raiseFatal_flags (s : State) (cc : CompletionCode) :
    (s.raiseFatal cc).flags = s.flags := rfl
@[simp] theorem State.raiseFatal_acc (s : State) (cc : CompletionCode) :
    (s.raiseFatal cc).acc = s.acc := rfl
@[simp] theorem State.raiseFatal_hacc (s : State) (cc : CompletionCode) :
    (s.raiseFatal cc).hacc = s.hacc := rfl
@[simp] theorem State.raiseFatal_waiting (s : State) (cc : CompletionCode) :
    (s.raiseFatal cc).waiting = s.waiting := rfl
@[simp] theorem State.raiseFatal_raw (s : State) (cc : CompletionCode) :
    (s.raiseFatal cc).raw = s.raw := rfl
@[simp] theorem State.raiseFatal_cand (s : State) (cc : CompletionCode) :
    (s.raiseFatal cc).cand = s.cand := rfl
@[simp] theorem State.raiseFatal_params (s : State) (cc : CompletionCode) :
    (s.raiseFatal cc).params = s.params := rfl
@[simp] theorem State.raiseFatal_sink (s : State) (cc : CompletionCode) :
    (s.raiseFatal cc).sink = s.sink := rfl
@[simp] theorem State.raiseFatal_host (s : State) (cc : CompletionCode) :
    (s.raiseFatal cc).host = s.host := rfl
@[simp] theorem State.raiseFatal_freeTick (s : State) (cc : CompletionCode) :
    (s.raiseFatal cc).freeTick = s.freeTick := rfl

/-! ### `State.wait` -/

@[simp] theorem State.wait_x (s : State) : s.wait.x = s.x := rfl
@[simp] theorem State.wait_status (s : State) : s.wait.status = s.status := rfl
@[simp] theorem State.wait_flags (s : State) : s.wait.flags = s.flags := rfl
@[simp] theorem State.wait_acc (s : State) : s.wait.acc = s.acc := rfl
@[simp] theorem State.wait_hacc (s : State) : s.wait.hacc = s.hacc := rfl
@[simp] theorem State.wait_waiting (s : State) : s.wait.waiting = true := rfl
@[simp] theorem State.wait_raw (s : State) : s.wait.raw = s.raw := rfl
@[simp] theorem State.wait_cand (s : State) : s.wait.cand = s.cand := rfl
@[simp] theorem State.wait_params (s : State) : s.wait.params = s.params := rfl
@[simp] theorem State.wait_sink (s : State) : s.wait.sink = s.sink := rfl
@[simp] theorem State.wait_host (s : State) : s.wait.host = s.host := rfl
@[simp] theorem State.wait_freeTick (s : State) : s.wait.freeTick = s.freeTick := rfl

/-! ### `State.latchFlags` -/

@[simp] theorem State.latchFlags_x (s : State) : s.latchFlags.x = s.x := rfl
@[simp] theorem State.latchFlags_status (s : State) : s.latchFlags.status = s.status := rfl
@[simp] theorem State.latchFlags_flags (s : State) :
    s.latchFlags.flags = s.cfgFlags &&& s.params.flagMask := rfl
@[simp] theorem State.latchFlags_hacc (s : State) : s.latchFlags.hacc = s.hacc := rfl
@[simp] theorem State.latchFlags_waiting (s : State) : s.latchFlags.waiting = s.waiting := rfl
@[simp] theorem State.latchFlags_raw (s : State) : s.latchFlags.raw = s.raw := rfl
@[simp] theorem State.latchFlags_cand (s : State) : s.latchFlags.cand = s.cand := rfl
@[simp] theorem State.latchFlags_params (s : State) : s.latchFlags.params = s.params := rfl
@[simp] theorem State.latchFlags_sink (s : State) : s.latchFlags.sink = s.sink := rfl
@[simp] theorem State.latchFlags_host (s : State) : s.latchFlags.host = s.host := rfl
@[simp] theorem State.latchFlags_freeTick (s : State) :
    s.latchFlags.freeTick = s.freeTick + 1 := rfl

/-! ### `State.usePaths` -/

@[simp] theorem State.usePaths_x (s : State) (comp : Bool) : (s.usePaths comp).x = s.x := rfl
@[simp] theorem State.usePaths_status (s : State) (comp : Bool) :
    (s.usePaths comp).status = s.status := rfl
@[simp] theorem State.usePaths_flags (s : State) (comp : Bool) :
    (s.usePaths comp).flags = s.flags := rfl
@[simp] theorem State.usePaths_hacc (s : State) (comp : Bool) :
    (s.usePaths comp).hacc = s.hacc := rfl
@[simp] theorem State.usePaths_waiting (s : State) (comp : Bool) :
    (s.usePaths comp).waiting = s.waiting := rfl
@[simp] theorem State.usePaths_raw (s : State) (comp : Bool) : (s.usePaths comp).raw = s.raw := rfl
@[simp] theorem State.usePaths_cand (s : State) (comp : Bool) :
    (s.usePaths comp).cand = s.cand := rfl
@[simp] theorem State.usePaths_params (s : State) (comp : Bool) :
    (s.usePaths comp).params = s.params := rfl
@[simp] theorem State.usePaths_sink (s : State) (comp : Bool) :
    (s.usePaths comp).sink = s.sink := rfl
@[simp] theorem State.usePaths_host (s : State) (comp : Bool) :
    (s.usePaths comp).host = s.host := rfl
@[simp] theorem State.usePaths_freeTick (s : State) (comp : Bool) :
    (s.usePaths comp).freeTick = s.freeTick + 1 := rfl

/-! ### `State.applyReset` -/

@[simp] theorem State.applyReset_x (s : State) : s.applyReset.x = Vector.replicate 8 0 := rfl
@[simp] theorem State.applyReset_status (s : State) :
    s.applyReset.status = State.reset.status := rfl
@[simp] theorem State.applyReset_flags (s : State) : s.applyReset.flags = 0 := rfl
@[simp] theorem State.applyReset_acc (s : State) : s.applyReset.acc = State.reset.acc := rfl
@[simp] theorem State.applyReset_hacc (s : State) : s.applyReset.hacc = none := rfl
@[simp] theorem State.applyReset_waiting (s : State) : s.applyReset.waiting = false := rfl
@[simp] theorem State.applyReset_raw (s : State) : s.applyReset.raw = s.raw := rfl
@[simp] theorem State.applyReset_cand (s : State) : s.applyReset.cand = s.cand := rfl
@[simp] theorem State.applyReset_params (s : State) : s.applyReset.params = s.params := rfl
@[simp] theorem State.applyReset_sink (s : State) :
    s.applyReset.sink = { s.sink with accepted := [], earlier := s.sink.earlier ++ s.sink.accepted } := rfl
@[simp] theorem State.applyReset_host (s : State) : s.applyReset.host = s.host := rfl
@[simp] theorem State.applyReset_freeTick (s : State) : s.applyReset.freeTick = s.freeTick := rfl

/-! ### `State.withPending` -/

@[simp] theorem State.withPending_x (s : State) (es : List PortEvent) :
    (s.withPending es).x = s.x := rfl
@[simp] theorem State.withPending_status (s : State) (es : List PortEvent) :
    (s.withPending es).status = s.status := rfl
@[simp] theorem State.withPending_flags (s : State) (es : List PortEvent) :
    (s.withPending es).flags = s.flags := rfl
@[simp] theorem State.withPending_acc (s : State) (es : List PortEvent) :
    (s.withPending es).acc = s.acc := rfl
@[simp] theorem State.withPending_hacc (s : State) (es : List PortEvent) :
    (s.withPending es).hacc = s.hacc := rfl
@[simp] theorem State.withPending_waiting (s : State) (es : List PortEvent) :
    (s.withPending es).waiting = s.waiting := rfl
@[simp] theorem State.withPending_raw (s : State) (es : List PortEvent) :
    (s.withPending es).raw = s.raw := rfl
@[simp] theorem State.withPending_cand (s : State) (es : List PortEvent) :
    (s.withPending es).cand = s.cand := rfl
@[simp] theorem State.withPending_params (s : State) (es : List PortEvent) :
    (s.withPending es).params = s.params := rfl
@[simp] theorem State.withPending_sink (s : State) (es : List PortEvent) :
    (s.withPending es).sink = s.sink := rfl
@[simp] theorem State.withPending_host (s : State) (es : List PortEvent) :
    (s.withPending es).host = { s.host with pending := es } := rfl
@[simp] theorem State.withPending_freeTick (s : State) (es : List PortEvent) :
    (s.withPending es).freeTick = s.freeTick := rfl

/-! ### The two fatal failures are one entry -/

theorem State.raiseIoFault_eq (s : State) : s.raiseIoFault = s.raiseFatal .errIo := rfl
theorem State.raiseFormatFault_eq (s : State) : s.raiseFormatFault = s.raiseFatal .errFormat := rfl

/-! ### Reset -/

@[simp] theorem State.reset_status_lifecycle : State.reset.status.lifecycle = .unconstructed := rfl

end Sys2Proof.Machine
end

