-- ==== Sys2Proof/Laws/Sink.lean ====
section
/-! SUPPORT. What sending a sequence of requests can do, said once (`Sink.send_ok`, `Sink.send_stop`,
`Sink.send_cases`), and what an admitted command can do with it (`State.transact_ok`, …). -/

namespace Sys2Proof.Machine

open Sys2Proof.Safety

theorem Sink.answerAt_pass (k : Sink) (n : Nat) : k.pass.answerAt n = k.answerAt (n + 1) := by
  simp only [Sink.answerAt, Sink.pass, List.getElem?_tail]
  congr 2
  omega

theorem Sink.answerAt_accept (k : Sink) (r : SinkRequest) (n : Nat) :
    (k.accept r).answerAt n = k.answerAt (n + 1) := Sink.answerAt_pass k n

@[simp] theorem sinkAfter_nil_zero (k : Sink) : sinkAfter k [] 0 = k := by
  simp [sinkAfter]

theorem sinkAfter_nil_one (k : Sink) : sinkAfter k [] 1 = k.pass := by
  simp [sinkAfter, Sink.pass, List.drop_one]

theorem sinkAfter_accept (k : Sink) (r : SinkRequest) (reqs : List SinkRequest) (n : Nat) :
    sinkAfter (k.accept r) reqs n = sinkAfter k (r :: reqs) (n + 1) := by
  simp [sinkAfter, Sink.accept, Sink.pass, List.append_assoc, Nat.add_comm,
    Nat.add_left_comm]

theorem AnswersOk.tail {k : Sink} {n : Nat} (r : SinkRequest) (h : AnswersOk k (n + 1)) :
    AnswersOk (k.accept r) n := fun j hj => by
  rw [Sink.answerAt_accept]
  exact h (j + 1) (by omega)

/-- All requests are answered OK: the accepted trace grows by exactly them. -/
theorem Sink.send_ok {k : Sink} {reqs : List SinkRequest} (h : AnswersOk k reqs.length) :
    k.send reqs = (.ok, sinkAfter k reqs reqs.length) := by
  induction reqs generalizing k with
  | nil => simp [Sink.send]
  | cons r rest ih =>
    have h0 := h 0 (by simp)
    simp only [Sink.send, h0]
    rw [ih (AnswersOk.tail r h), sinkAfter_accept]
    rfl

/-- The request after the first `n` is not answered OK: the trace grows by the first `n`. -/
theorem Sink.send_stop {k : Sink} {reqs : List SinkRequest} {n : Nat} {a : SinkAnswer}
    (hn : n < reqs.length) (h : AnswersThen k n a) (ha : a ≠ .ok) :
    k.send reqs = (a, sinkAfter k (reqs.take n) (n + 1)) := by
  induction reqs generalizing k n with
  | nil => simp at hn
  | cons r rest ih =>
    cases n with
    | zero =>
      have h0 : k.answerAt 0 = a := h.2
      cases a with
      | ok => exact absurd rfl ha
      | err => simp [Sink.send, h0, sinkAfter_nil_one]
      | silent => simp [Sink.send, h0, sinkAfter_nil_one]
    | succ n =>
      have h0 := h.1 0 (by simp)
      have h' : AnswersThen (k.accept r) n a :=
        ⟨AnswersOk.tail r h.1, by rw [Sink.answerAt_accept]; exact h.2⟩
      simp only [Sink.send, h0]
      rw [ih (by simpa using hn) h', sinkAfter_accept]
      rfl

/-- Either the sink answers OK to all of `n` requests, or there is a first that it does not. -/
theorem answers_cases (k : Sink) (n : Nat) :
    AnswersOk k n ∨ ∃ j < n, ∃ a, a ≠ .ok ∧ AnswersThen k j a := by
  induction n with
  | zero => exact .inl fun j hj => absurd hj (Nat.not_lt_zero j)
  | succ n ih =>
    rcases ih with h | ⟨j, hj, a, ha, h⟩
    · by_cases hn : k.answerAt n = .ok
      · refine .inl fun j hj => ?_
        rcases Nat.lt_succ_iff_lt_or_eq.1 hj with h' | rfl
        · exact h j h'
        · exact hn
      · exact .inr ⟨n, Nat.lt_succ_self n, _, hn, h, rfl⟩
    · exact .inr ⟨j, by omega, a, ha, h⟩

/-- Everything sending can do. -/
theorem Sink.send_cases (k : Sink) (reqs : List SinkRequest) :
    (AnswersOk k reqs.length ∧ k.send reqs = (.ok, sinkAfter k reqs reqs.length)) ∨
    ∃ n < reqs.length, ∃ a, a ≠ .ok ∧ AnswersThen k n a ∧
      k.send reqs = (a, sinkAfter k (reqs.take n) (n + 1)) := by
  rcases answers_cases k reqs.length with h | ⟨n, hn, a, ha, h⟩
  · exact .inl ⟨h, Sink.send_ok h⟩
  · exact .inr ⟨n, hn, a, ha, h, Sink.send_stop hn h ha⟩

/-! ### An admitted command -/

variable {s : State} {reqs : List SinkRequest} {onOk onWait : State → State}

theorem State.transact_ok (h : AnswersOk s.sink reqs.length) :
    s.transact reqs onOk onWait =
      (onOk { s with sink := sinkAfter s.sink reqs reqs.length }).completeOk := by
  simp [State.transact, Sink.send_ok h]

theorem State.transact_err {n : Nat} (hn : n < reqs.length) (h : AnswersThen s.sink n .err) :
    s.transact reqs onOk onWait =
      ({ s with sink := sinkAfter s.sink (reqs.take n) (n + 1) } : State).raiseIoFault := by
  simp [State.transact, Sink.send_stop hn h (by simp)]

theorem State.transact_silent {n : Nat} (hn : n < reqs.length)
    (h : AnswersThen s.sink n .silent) :
    s.transact reqs onOk onWait =
      (onWait { s with sink := sinkAfter s.sink (reqs.take n) (n + 1) }).wait := by
  simp [State.transact, Sink.send_stop hn h (by simp)]

/-- Everything an admitted command can do. -/
theorem State.transact_cases (s : State) (reqs : List SinkRequest) (onOk onWait : State → State) :
    (AnswersOk s.sink reqs.length ∧ s.transact reqs onOk onWait =
      (onOk { s with sink := sinkAfter s.sink reqs reqs.length }).completeOk) ∨
    (∃ n < reqs.length, AnswersThen s.sink n .err ∧ s.transact reqs onOk onWait =
      ({ s with sink := sinkAfter s.sink (reqs.take n) (n + 1) } : State).raiseIoFault) ∨
    (∃ n < reqs.length, AnswersThen s.sink n .silent ∧ s.transact reqs onOk onWait =
      (onWait { s with sink := sinkAfter s.sink (reqs.take n) (n + 1) }).wait) := by
  rcases answers_cases s.sink reqs.length with h | ⟨n, hn, a, ha, h⟩
  · exact .inl ⟨h, State.transact_ok h⟩
  · cases a with
    | ok => exact absurd rfl ha
    | err => exact .inr (.inl ⟨n, hn, h, State.transact_err hn h⟩)
    | silent => exact .inr (.inr ⟨n, hn, h, State.transact_silent hn h⟩)

end Sys2Proof.Machine
end

