-- ==== Sys2Proof/Laws/Memory.lean ====
section
/-! SUPPORT. The laws of the buffer spaces: read after write, the canonical form, ranges. -/

namespace Sys2Proof.Machine

theorem Memory.read_of_lt_all {m : Memory} {a : Nat} (h : ∀ c ∈ m, a < c.1) :
    m.read a = Memory.unlisted := by
  induction m with
  | nil => rfl
  | cons c rest ih =>
    have hc := h c (List.mem_cons_self ..)
    have hr := ih fun d hd => h d (List.mem_cons_of_mem _ hd)
    simp [Memory.read, Nat.ne_of_gt hc, hr]

theorem Memory.write_mem {m : Memory} {a : Nat} {b : Byte} {c : Host.Cell}
    (h : c ∈ m.write a b) : c ∈ m ∨ (c = (a, b) ∧ b ≠ Memory.unlisted) := by
  induction m with
  | nil =>
    by_cases hb : b = Memory.unlisted <;> simp_all [Memory.write]
  | cons d rest ih =>
    obtain ⟨k, v⟩ := d
    simp only [Memory.write] at h
    split at h
    · split at h <;> simp_all; tauto
    · split at h
      · split at h <;> simp_all; tauto
      · rcases List.mem_cons.1 h with rfl | h'
        · simp
        · rcases ih h' with h'' | h'' <;> simp [h'']

/-- A write keeps the canonical form. -/
theorem Memory.write_wf {m : Memory} (a : Nat) (b : Byte) (h : m.wf) : (m.write a b).wf := by
  refine ⟨?_, fun c hc => ?_⟩
  · induction m with
    | nil => by_cases hb : b = Memory.unlisted <;> simp [Memory.write, hb]
    | cons d rest ih =>
      obtain ⟨k, v⟩ := d
      obtain ⟨hs, hn⟩ := h
      have hs' := List.pairwise_cons.1 hs
      have hrest : Memory.wf rest := ⟨hs'.2, fun c hc => hn c (List.mem_cons_of_mem _ hc)⟩
      simp only [Memory.write]
      split
      · split
        · exact hs
        · refine List.pairwise_cons.2 ⟨fun c hc => ?_, hs⟩
          rcases List.mem_cons.1 hc with rfl | hc'
          · assumption
          · have := hs'.1 c hc'
            simp only at *
            omega
      · split
        · split
          · exact hs'.2
          · refine List.pairwise_cons.2 ⟨fun c hc => ?_, hs'.2⟩
            have := hs'.1 c hc
            simp only at *
            omega
        · refine List.pairwise_cons.2 ⟨fun c hc => ?_, ih hrest⟩
          rcases Memory.write_mem hc with hc' | ⟨rfl, -⟩
          · exact hs'.1 c hc'
          · simp only
            omega
  · rcases Memory.write_mem hc with hc' | ⟨rfl, hb⟩
    · exact h.2 c hc'
    · exact hb

/-- A write at an address of the space lists no address outside it. -/
theorem Memory.write_within {m : Memory} {size a : Nat} (b : Byte) (h : m.within size)
    (ha : a < size) : (m.write a b).within size := by
  intro c hc
  rcases Memory.write_mem hc with hc' | ⟨rfl, -⟩
  · exact h c hc'
  · exact ha

/-- A read after a write to the same address gives the byte written. -/
theorem Memory.read_write_same {m : Memory} (a : Nat) (b : Byte) (h : m.wf) :
    (m.write a b).read a = b := by
  induction m with
  | nil => by_cases hb : b = Memory.unlisted <;> simp [Memory.write, Memory.read, hb]
  | cons d rest ih =>
    obtain ⟨k, v⟩ := d
    have hs' := List.pairwise_cons.1 h.1
    have hrest : Memory.wf rest := ⟨hs'.2, fun c hc => h.2 c (List.mem_cons_of_mem _ hc)⟩
    simp only [Memory.write]
    split
    · next hlt =>
      split
      · next hb =>
        rw [hb]
        refine Memory.read_of_lt_all fun c hc => ?_
        rcases List.mem_cons.1 hc with rfl | hc'
        · exact hlt
        · have := hs'.1 c hc'
          simp only at *
          omega
      · simp [Memory.read]
    · split
      · next heq =>
        subst heq
        split
        · next hb =>
          rw [hb]
          exact Memory.read_of_lt_all fun c hc => hs'.1 c hc
        · simp [Memory.read]
      · next hne =>
        simp [Memory.read, ih hrest, Ne.symm hne]

/-- A write leaves every other address alone. -/
theorem Memory.read_write_other {m : Memory} {a a' : Nat} (b : Byte) (h : a' ≠ a) (hw : m.wf) :
    (m.write a b).read a' = m.read a' := by
  induction m with
  | nil => by_cases hb : b = Memory.unlisted <;> simp [Memory.write, Memory.read, hb, h.symm]
  | cons d rest ih =>
    obtain ⟨k, v⟩ := d
    have hs' := List.pairwise_cons.1 hw.1
    have hrest : Memory.wf rest := ⟨hs'.2, fun c hc => hw.2 c (List.mem_cons_of_mem _ hc)⟩
    simp only [Memory.write]
    split
    · split
      · rfl
      · simp [Memory.read, h.symm]
    · split
      · next heq =>
        subst heq
        split <;> simp [Memory.read, h.symm]
      · simp [Memory.read, ih hrest]

/-- `MemRead` gives exactly `n` bytes. -/
@[simp] theorem Memory.readRange_length (m : Memory) (addr n : Nat) :
    (m.readRange addr n).length = n := by
  induction n generalizing addr with
  | zero => rfl
  | succ n ih => simp [Memory.readRange, ih]

theorem Memory.readRange_getElem? (m : Memory) {addr n i : Nat} (h : i < n) :
    (m.readRange addr n)[i]? = some (m.read (addr + i)) := by
  induction n generalizing addr i with
  | zero => omega
  | succ n ih =>
    cases i with
    | zero => simp [Memory.readRange]
    | succ i =>
      have := ih (addr := addr + 1) (i := i) (by omega)
      simp only [Memory.readRange, List.getElem?_cons_succ, this]
      congr 2
      omega

/-- Equal bytes give equal ranges. -/
theorem Memory.readRange_congr {m m' : Memory} {addr n : Nat}
    (h : ∀ a, addr ≤ a → a < addr + n → m.read a = m'.read a) :
    m.readRange addr n = m'.readRange addr n := by
  induction n generalizing addr with
  | zero => rfl
  | succ n ih =>
    simp only [Memory.readRange]
    rw [h addr (by omega) (by omega), ih fun a h1 h2 => h a (by omega) (by omega)]

end Sys2Proof.Machine
end

