-- ==== Sys2Proof/Laws/Wire.lean ====
section
/-! SUPPORT. Lengths of what is emitted, and the bytes of the terminator. -/

namespace Sys2Proof.Machine

@[simp] theorem u8_length (v : Byte) : (u8 v).length = 1 := rfl
@[simp] theorem be16_length (v : Half) : (be16 v).length = 2 := rfl
@[simp] theorem be32_length (v : Word) : (be32 v).length = 4 := rfl

@[simp] theorem headerFields_length (p : Params) (algo level : Byte) (flags mode mtime : Word) :
    (headerFields p algo level flags mode mtime).length = 25 := rfl

@[simp] theorem headerRecord_length (p : Params) (algo level : Byte) (flags mode mtime : Word) :
    (headerRecord p algo level flags mode mtime).length = 29 := rfl

@[simp] theorem emitRequests_length (bytes : List Byte) :
    (emitRequests bytes).length = bytes.length := by simp [emitRequests]

@[simp] theorem State.initRequests_length (s : State) : s.initRequests.length = 38 := by
  simp [State.initRequests]

@[simp] theorem closeRequests_length : closeRequests.length = 6 := rfl

theorem closeRequests_eq :
    closeRequests = [.flush, .data 0, .data 0, .data 0, .data 0, .close] := by decide

@[simp] theorem fieldIf_length (c : Bool) (f : List Byte) :
    (fieldIf c f).length = if c then f.length else 0 := by cases c <;> rfl

/-! ### The checksum functions the parameters name -/

@[simp] theorem adler32Of_reference {p : Params} (h : p.adlerFunction = .reference)
    (bytes : List Byte) : adler32Of p bytes = adler32 bytes := by
  simp only [adler32Of, h]

@[simp] theorem crc32Of_reference {p : Params} (h : p.crcFunction = .reference)
    (bytes : List Byte) : crc32Of p bytes = crc32 bytes := by
  simp only [crc32Of, h]

@[simp] theorem adler32Of_other {p : Params} {k : Nat} (h : p.adlerFunction = .other k)
    (bytes : List Byte) : adler32Of p bytes = otherChecksum k bytes := by
  simp only [adler32Of, h]

@[simp] theorem crc32Of_other {p : Params} {k : Nat} (h : p.crcFunction = .other k)
    (bytes : List Byte) : crc32Of p bytes = otherChecksum k bytes := by
  simp only [crc32Of, h]

/-- HACC's value is the header checksum, where `adler32` is rule R131's function. -/
theorem State.headerAcc_read {s : State} (h : s.params.adlerFunction = .reference) :
    adlerRead s.headerAcc =
      adler32Of s.params (headerFields s.params s.algo s.level s.flags s.cfgMode s.cfgMtime) := by
  rw [adler32Of_reference h]
  simp only [State.headerAcc, h]
  rfl

@[simp] theorem State.rawBytes_length (s : State) : s.rawBytes.length = s.rawLen.toNat := by
  simp [State.rawBytes]

/-! ### The conditions a record depends on -/

theorem compChosen_eq_true {rl cl : Word} : compChosen rl cl = true ↔ cl.toNat < rl.toNat := by
  simp [compChosen]

theorem compChosen_eq_false {rl cl : Word} : compChosen rl cl = false ↔ ¬ cl.toNat < rl.toNat := by
  simp [compChosen]

theorem flagSet_eq_true {flags mask : Word} : flagSet flags mask = true ↔ flags &&& mask ≠ 0 := by
  simp [flagSet]

theorem flagSet_eq_false {flags mask : Word} : flagSet flags mask = false ↔ flags &&& mask = 0 := by
  simp [flagSet]

theorem State.comp_eq_true {s : State} : s.comp = true ↔ s.x[3].toNat < s.x[1].toNat :=
  compChosen_eq_true

theorem State.comp_eq_false {s : State} : s.comp = false ↔ ¬ s.x[3].toNat < s.x[1].toNat :=
  compChosen_eq_false

/-- WBLK's operand tests, written out (rule R173). -/
theorem State.operandsInadmissible_eq_true {s : State} : s.operandsInadmissible = true ↔
    s.x[1].toNat > 0x7FFFFFFF ∨ s.x[3].toNat > 0x7FFFFFFF ∨
    s.x[0].toNat + s.x[1].toNat > s.params.rawSize ∨
    (s.x[3].toNat < s.x[1].toNat ∧ s.x[2].toNat + s.x[3].toNat > s.params.candSize) := by
  simp only [State.operandsInadmissible, Bool.or_eq_true, Bool.and_eq_true, decide_eq_true_eq,
    State.comp_eq_true, or_assoc]
  rfl

/-- The record WBLK emits, from the operand registers and the buffers. -/
theorem State.record_eq (s : State) : s.record = blockRecord s.params s.flags s.x[1] s.x[3]
    (s.raw.readRange s.x[0].toNat s.x[1].toNat)
    (s.cand.readRange s.x[2].toNat s.x[3].toNat) := by
  unfold State.record State.candBytes
  cases h : s.comp
  · have h' : compChosen s.x[1] s.x[3] = false := h
    simp only [State.rawLen, State.candLen, State.rawBytes, State.rawOff, blockRecord, h',
      fieldIf, Bool.false_and, Bool.false_eq_true, if_false]
  · rfl

/-- A record has at least its two length fields, so WBLK's emission makes a request. -/
theorem blockRecord_length_ge (p : Params) (flags rl cl : Word) (raw cand : List Byte) :
    8 ≤ (blockRecord p flags rl cl raw cand).length := by
  simp only [blockRecord, List.length_append, be32_length]
  omega

theorem State.candBytes_length {s : State} (h : s.comp = true) :
    s.candBytes.length = s.candLen.toNat := by
  simp [State.candBytes, h]

end Sys2Proof.Machine
end

