-- ==== Sys2Proof/Laws/Exec.lean ====
section
/-! SUPPORT. What each command can do, said once: `afterInit_cases`, `afterWblk_cases`,
`afterClose_cases`; and what one step can do, `step_cases`. -/

namespace Sys2Proof.Machine

open Sys2Proof.Safety

/-- INIT is admitted and its format check passes (rules R152, R153). -/
def InitAdmitted (s : State) : Prop :=
  s.status.fault = false ∧ s.status.constructed = false ∧
  s.algo = s.params.algoLzo1x ∧ s.level = s.params.levelLzo1x

/-- WBLK is admitted, operands included (rules R172, R173). -/
def WblkAdmitted (s : State) : Prop :=
  s.status.fault = false ∧ s.status.constructed = true ∧ s.status.closed = false ∧
  s.operandsInadmissible = false

/-- CLOSE runs its sequence (rule R201). -/
def CloseAdmitted (s : State) : Prop :=
  s.status.fault = false ∧ s.status.constructed = true ∧ s.status.closed = false

theorem afterInit_admitted {s : State} (h : InitAdmitted s) :
    s.afterInit = s.latchFlags.emitHeader := by
  obtain ⟨h1, h2, h3, h4⟩ := h
  simp [State.afterInit, h1, h2, h3, h4]

theorem afterWblk_admitted {s : State} (h : WblkAdmitted s) : s.afterWblk = s.emitBlock := by
  obtain ⟨h1, h2, h3, h4⟩ := h
  simp [State.afterWblk, h1, h2, h3, h4]

theorem afterClose_admitted {s : State} (h : CloseAdmitted s) : s.afterClose = s.emitClose := by
  obtain ⟨h1, h2, h3⟩ := h
  simp [State.afterClose, h1, h2, h3]

/-- Everything INIT can do before its first request. -/
theorem afterInit_cases (s : State) :
    (s.status.fault = true ∧ s.afterInit = s.reject .errFaulted) ∨
    (s.status.fault = false ∧ s.status.constructed = true ∧ s.afterInit = s.reject .errState) ∨
    (s.status.fault = false ∧ s.status.constructed = false ∧
      (s.algo ≠ s.params.algoLzo1x ∨ s.level ≠ s.params.levelLzo1x) ∧
      s.afterInit = s.raiseFormatFault) ∨
    (InitAdmitted s ∧ s.afterInit = s.latchFlags.emitHeader) := by
  by_cases h1 : s.status.fault = true
  · exact .inl ⟨h1, by simp [State.afterInit, h1]⟩
  · by_cases h2 : s.status.constructed = true
    · exact .inr (.inl ⟨by simpa using h1, h2, by simp [State.afterInit, h1, h2]⟩)
    · by_cases h3 : s.algo ≠ s.params.algoLzo1x ∨ s.level ≠ s.params.levelLzo1x
      · exact .inr (.inr (.inl ⟨by simpa using h1, by simpa using h2, h3,
          by simp [State.afterInit, h1, h2, h3]⟩))
      · have h : InitAdmitted s := by
          push Not at h3
          exact ⟨by simpa using h1, by simpa using h2, h3⟩
        exact .inr (.inr (.inr ⟨h, afterInit_admitted h⟩))

/-- Everything WBLK can do before its first request. -/
theorem afterWblk_cases (s : State) :
    (s.status.fault = true ∧ s.afterWblk = s.reject .errFaulted) ∨
    (s.status.fault = false ∧ (s.status.constructed = false ∨ s.status.closed = true) ∧
      s.afterWblk = s.reject .errState) ∨
    (s.status.fault = false ∧ s.status.constructed = true ∧ s.status.closed = false ∧
      s.operandsInadmissible = true ∧ s.afterWblk = s.reject .errOperand) ∨
    (WblkAdmitted s ∧ s.afterWblk = s.emitBlock) := by
  cases h1 : s.status.fault <;> cases h2 : s.status.constructed <;> cases h3 : s.status.closed <;>
    cases h4 : s.operandsInadmissible <;>
    simp [State.afterWblk, WblkAdmitted, h1, h2, h3, h4]

/-- Everything CLOSE can do before its first request. -/
theorem afterClose_cases (s : State) :
    (s.status.fault = true ∧ s.afterClose = s.reject .errFaulted) ∨
    (s.status.fault = false ∧ s.status.constructed = false ∧ s.afterClose = s.reject .errState) ∨
    (s.status.fault = false ∧ s.status.constructed = true ∧ s.status.closed = true ∧
      s.afterClose = s.completeOk) ∨
    (CloseAdmitted s ∧ s.afterClose = s.emitClose) := by
  cases h1 : s.status.fault <;> cases h2 : s.status.constructed <;> cases h3 : s.status.closed <;>
    simp [State.afterClose, CloseAdmitted, h1, h2, h3]

/-- Everything a command can do before its first request. -/
theorem exec_cases {i : Instr} {s t : State} (h : exec i s = .next t) :
    (s.status.fault = true ∧ t = s.reject .errFaulted) ∨
    (s.status.fault = false ∧ t = s.reject .errState ∧
      ((i = .init ∧ s.status.constructed = true) ∨
        (i = .wblk ∧ (s.status.constructed = false ∨ s.status.closed = true)) ∨
        (i = .close ∧ s.status.constructed = false))) ∨
    (i = .wblk ∧ s.status.fault = false ∧ s.status.constructed = true ∧ s.status.closed = false ∧
      s.operandsInadmissible = true ∧ t = s.reject .errOperand) ∨
    (i = .init ∧ s.status.fault = false ∧ s.status.constructed = false ∧
      (s.algo ≠ s.params.algoLzo1x ∨ s.level ≠ s.params.levelLzo1x) ∧ t = s.raiseFormatFault) ∨
    (i = .close ∧ s.status.fault = false ∧ s.status.constructed = true ∧ s.status.closed = true ∧
      t = s.completeOk) ∨
    (i = .init ∧ InitAdmitted s ∧ t = s.latchFlags.emitHeader) ∨
    (i = .wblk ∧ WblkAdmitted s ∧ t = s.emitBlock) ∨
    (i = .close ∧ CloseAdmitted s ∧ t = s.emitClose) := by
  cases i with
  | init =>
    have ht : s.afterInit = t := Host.Outcome.next.inj h
    rcases afterInit_cases s with ⟨h1, e⟩ | ⟨h1, h2, e⟩ | ⟨h1, h2, h3, e⟩ | ⟨ha, e⟩ <;>
      rw [ht] at e <;> simp_all
  | wblk =>
    have ht : s.afterWblk = t := Host.Outcome.next.inj h
    rcases afterWblk_cases s with ⟨h1, e⟩ | ⟨h1, h2 | h2, e⟩ | ⟨h1, h2, h3, h4, e⟩ | ⟨ha, e⟩ <;>
      rw [ht] at e <;> simp_all
  | close =>
    have ht : s.afterClose = t := Host.Outcome.next.inj h
    rcases afterClose_cases s with ⟨h1, e⟩ | ⟨h1, h2, e⟩ | ⟨h1, h2, h3, e⟩ | ⟨ha, e⟩ <;>
      rw [ht] at e <;> simp_all

/-- Everything INIT's emission can do. -/
theorem State.emitHeader_cases (s : State) :
    (AnswersOk s.sink 38 ∧ s.emitHeader = { s with
      status := { s.status with constructed := true, lastcc := CompletionCode.ok.code }
      sink := sinkAfter s.sink s.initRequests 38 }) ∨
    (∃ n < 38, AnswersThen s.sink n .err ∧ s.emitHeader =
      ({ s with sink := sinkAfter s.sink (s.initRequests.take n) (n + 1) } : State).raiseIoFault) ∨
    (∃ n < 38, AnswersThen s.sink n .silent ∧ s.emitHeader = { s with
      sink := sinkAfter s.sink (s.initRequests.take n) (n + 1)
      hacc := some s.headerAcc
      waiting := true }) := by
  have h := State.transact_cases s s.initRequests
    (fun t => { t with status := { t.status with constructed := true } })
    (fun t => { t with hacc := some s.headerAcc })
  rw [State.initRequests_length] at h
  exact h

/-- Everything WBLK's emission can do. -/
theorem State.emitBlock_cases (s : State) :
    (AnswersOk s.sink s.record.length ∧ s.emitBlock =
      ({ s.usePaths s.comp with
        sink := sinkAfter s.sink (emitRequests s.record) s.record.length } : State).completeOk) ∨
    (∃ n < s.record.length, AnswersThen s.sink n .err ∧ s.emitBlock =
      ({ s.usePaths s.comp with
        sink := sinkAfter s.sink ((emitRequests s.record).take n) (n + 1) } : State).raiseIoFault) ∨
    (∃ n < s.record.length, AnswersThen s.sink n .silent ∧ s.emitBlock =
      ({ s.usePaths s.comp with
        sink := sinkAfter s.sink ((emitRequests s.record).take n) (n + 1) } : State).wait) := by
  have h := State.transact_cases (s.usePaths s.comp) (emitRequests s.record)
    (fun t => t) (fun t => t)
  rw [emitRequests_length] at h
  exact h

/-- Everything CLOSE's sequence can do. -/
theorem State.emitClose_cases (s : State) :
    (AnswersOk s.sink 6 ∧ s.emitClose = { s with
      status := { s.status with closed := true, lastcc := CompletionCode.ok.code }
      sink := sinkAfter s.sink closeRequests 6 }) ∨
    (∃ n < 6, AnswersThen s.sink n .err ∧ s.emitClose =
      ({ s with sink := sinkAfter s.sink (closeRequests.take n) (n + 1) } : State).raiseIoFault) ∨
    (∃ n < 6, AnswersThen s.sink n .silent ∧ s.emitClose =
      ({ s with sink := sinkAfter s.sink (closeRequests.take n) (n + 1) } : State).wait) :=
  State.transact_cases s closeRequests
    (fun t => { t with status := { t.status with closed := true } }) (fun t => t)

/-! ### The port and one step -/

theorem issue_cases {w : Word} {s t : State} (h : issue w s = .next t) :
    (∃ i, decode w = .ok i ∧ exec i s = .next t) ∨
    (∃ e, decode w = .error e ∧ t = s.reject .errOpcode) := by
  unfold issue at h
  split at h
  · next i hi => exact .inl ⟨i, hi, h⟩
  · next e he =>
    injection h with h
    exact .inr ⟨e, he, h.symm⟩

/-- Everything one event of the port can do. -/
theorem runEvent_cases {e : PortEvent} {s t : State} (h : runEvent e s = .next t) :
    (∃ (i : Fin 16) (v : Word) (hi : i.val < 8), e = .hwrite i v ∧ t = { s with x := s.x.set i.val v }) ∨
    (∃ v, e = .hwrite 8 v ∧ issue v s = .next t) ∨
    (∃ (i : Fin 16) (v : Word), 8 < i.val ∧ e = .hwrite i v ∧ t = s) ∨
    (∃ i, e = .hread i ∧
      t = { s with host := { s.host with returned := s.host.returned ++ [s.portRead i] } }) ∨
    (e = .reset ∧ t = s.applyReset) ∨
    (∃ sp a b, e = .place sp a b ∧ a < spaceSize s.params sp ∧ t = s.placeByte sp a b) := by
  cases e with
  | hwrite i v =>
    simp only [runEvent, hwrite] at h
    split at h
    · next hi =>
      injection h with h
      exact .inl ⟨i, v, hi, rfl, h.symm⟩
    · next hi =>
      by_cases h8 : i.val = 8
      · rw [if_pos h8] at h
        have : i = 8 := Fin.ext h8
        subst this
        exact .inr (.inl ⟨v, rfl, h⟩)
      · rw [if_neg h8] at h
        injection h with h
        exact .inr (.inr (.inl ⟨i, v, by omega, rfl, h.symm⟩))
  | hread i =>
    injection h with h
    exact .inr (.inr (.inr (.inl ⟨i, rfl, h.symm⟩)))
  | reset =>
    injection h with h
    exact .inr (.inr (.inr (.inr (.inl ⟨rfl, h.symm⟩))))
  | place sp a b =>
    simp only [runEvent, place] at h
    split at h
    · next ha =>
      injection h with h
      exact .inr (.inr (.inr (.inr (.inr ⟨sp, a, b, rfl, ha, h.symm⟩))))
    · simp at h

/-- Everything one step can do: stay idle, run one event, end a waiting command by reset, or wait. -/
theorem step_cases {s t : State} (h : step s = .next t) :
    (s.host.pending = [] ∧ t = s) ∨
    (∃ e es, s.waiting = false ∧ s.host.pending = e :: es ∧
      runEvent e (s.withPending es) = .next t) ∨
    (∃ es, s.waiting = true ∧ s.host.pending = .reset :: es ∧
      t = (s.withPending es).applyReset) ∨
    (∃ e es, s.waiting = true ∧ s.host.pending = e :: es ∧ e ≠ .reset ∧ t = s) := by
  unfold step takeEvent at h
  split at h
  · next hp =>
    injection h with h
    exact .inl ⟨hp, h.symm⟩
  · next e es hw hp => exact .inr (.inl ⟨e, es, hw, hp, h⟩)
  · next es hw hp =>
    injection h with h
    exact .inr (.inr (.inl ⟨es, hw, hp, h.symm⟩))
  · next e es hne hw hp =>
    injection h with h
    exact .inr (.inr (.inr ⟨e, es, hw, hp, fun he => hne he, h.symm⟩))

end Sys2Proof.Machine
end

