-- ==== Sys2Proof/Laws/PerInstr.lean ====
section
/-! SUPPORT. The per-instruction family: every command's word is well-formed as an encoding: its field
`zero` is 0 and its field `op` is its opcode (rules R90, R92). -/

namespace Sys2Proof.Laws.WordFields

/-- The word of a well-formed command has a zero reserved field and the command's opcode. -/
def Statement (i : Instr) : Prop :=
  i.wellFormed = true → zeroField (encode i) = 0 ∧ opField (encode i) = opcodeOf i

theorem init : Statement .init := fun _ => by decide

theorem wblk : Statement .wblk := fun _ => by decide

theorem close : Statement .close := fun _ => by decide

end Sys2Proof.Laws.WordFields
end

