-- ==== Sys2Proof/Tests/Slice0.lean ====
section
/-! SUPPORT. Tests. Expected values are those of 95_test_vectors.md (its vector is named) or follow from
the rule named. After the tests, one witness for each statement that has hypotheses: a concrete state
and operands that meet them. -/

namespace Sys2Proof.Tests

open Sys2Proof.Machine Sys2Proof.Safety

/-! ### The fixture of 95_test_vectors.md -/

/-- Parameter set P0 (rule R6) with the fixture's buffer sizes. A test value, not the model's. -/
def p0 : Params where
  magic := #v[0x89, 0x4C, 0x5A, 0x4F, 0x00, 0x0D, 0x0A, 0x1A, 0x0A]
  lzopVersion := 0x1010
  libVersion := 0x2060
  compatVersion := 0x0940
  algoLzo1x := 1
  levelLzo1x := 5
  fAdler32D := 0x001
  fAdler32C := 0x002
  fCrc32D := 0x100
  fCrc32C := 0x200
  rawSize := 32
  candSize := 16
  adlerFunction := .reference
  crcFunction := .reference

def helloBytes : List Byte := [0x68, 0x65, 0x6C, 0x6C, 0x6F, 0x20, 0x77, 0x6F, 0x72, 0x6C, 0x64, 0x0A]

/-- A memory holding the bytes from address `a` on. -/
def memoryOf (a : Nat) : List Byte → Memory
  | [] => []
  | b :: bs => Memory.write (memoryOf (a + 1) bs) a b

def raw0 : Memory := memoryOf 0 (List.replicate 4 0x41 ++ helloBytes ++ List.replicate 16 0x41)

def cand0 : Memory :=
  memoryOf 0 [0x11, 0x22, 0x15, 0x41, 0x20, 0x00, 0x00, 0x00, 0x00, 0x01, 0x41, 0x11]

/-- A sink that answers OK `n` times and then ERR. -/
def sinkFailing (n : Nat) : Sink :=
  { accepted := [], earlier := [], script := List.replicate n .ok ++ [.err], asked := 0 }

/-- Right after reset, with the fixture's buffers and a sink that answers OK at least 60 times. -/
def fresh : State :=
  { State.reset with params := p0, raw := raw0, cand := cand0, sink := sinkFailing 60 }

/-- The state with operand registers x4 .. x7. -/
def State.cfg (s : State) (x4 x5 x6 x7 : Word) : State :=
  { s with x := #v[s.x[0], s.x[1], s.x[2], s.x[3], x4, x5, x6, x7] }

/-- The state with operand registers x0 .. x3. -/
def State.chunk (s : State) (x0 x1 x2 x3 : Word) : State :=
  { s with x := #v[x0, x1, x2, x3, s.x[4], s.x[5], s.x[6], s.x[7]] }

/-- State Open, all four flags set. -/
def opened : State :=
  { fresh with
    status := { fresh.status with constructed := true }
    flags := 0x303
    acc := { adlerD := some adlerReset, crcD := some crcReset,
             adlerC := some adlerReset, crcC := some crcReset } }

/-- State Closed. -/
def closed : State := { opened with status := { opened.status with closed := true } }

/-- State Failed. -/
def failed : State :=
  { opened with status := { opened.status with fault := true, cause := 1, lastcc := 1 } }

/-- The state with another sink. -/
def State.withSink (s : State) (k : Sink) : State := { s with sink := k }

/-- Fields of the next state, if the outcome is one. -/
def nextOf {α : Type} (f : State → α) : Host.Outcome State Fault Refusal → Option α
  | .next t => some (f t)
  | _ => none

/-- What a command leaves: STATUS, FLAGS and the number of accepted requests. -/
def summary (t : State) : Word × Word × Nat := (t.status.word, t.flags, t.sink.accepted.length)

/-! ### WellFormed: an ill-formed term for each check (rule R7) -/

theorem test_wf_p0 : p0.wf := by decide

theorem test_wf_refuses_mask_of_no_bit : ¬ ({ p0 with fAdler32D := 0 } : Params).wf := by decide

theorem test_wf_refuses_mask_of_two_bits : ¬ ({ p0 with fAdler32C := 0x402 } : Params).wf := by decide

theorem test_wf_refuses_crc_d_mask : ¬ ({ p0 with fCrc32D := 0x300 } : Params).wf := by decide

theorem test_wf_refuses_crc_c_mask : ¬ ({ p0 with fCrc32C := 0 } : Params).wf := by decide

theorem test_wf_refuses_equal_masks : ¬ ({ p0 with fCrc32C := 0x002 } : Params).wf := by decide

theorem test_wf_refuses_rawSize : ¬ ({ p0 with rawSize := 2 ^ 32 + 1 } : Params).wf := by decide

theorem test_wf_refuses_candSize : ¬ ({ p0 with candSize := 2 ^ 32 + 1 } : Params).wf := by decide

theorem test_wf_commands : ∀ i ∈ [Instr.init, .wblk, .close], i.wellFormed = true := by decide

/-! ### Decoding (rules R90 to R94; words written from R90's fields: 24 zero bits, then the opcode) -/

theorem test_decode_init :
    decode (0b000000000000000000000000#24 ++ 0b00000001#8) = .ok .init := by decide

theorem test_decode_wblk :
    decode (0b000000000000000000000000#24 ++ 0b00000010#8) = .ok .wblk := by decide

theorem test_decode_close :
    decode (0b000000000000000000000000#24 ++ 0b00000011#8) = .ok .close := by decide

/-- V52, V53: bits above the opcode. -/
theorem test_decode_zero_field : decode (0b000000000000000000000001#24 ++ 0b00000001#8) =
    .error .zeroFieldSet ∧ decode (0b100000000000000000000000#24 ++ 0b00000010#8) =
    .error .zeroFieldSet := by decide

/-- V50, V51, V54: reserved opcodes. -/
theorem test_decode_reserved : decode 0 = .error .reservedOpcode ∧
    decode 4 = .error .reservedOpcode ∧ decode 0xFF = .error .reservedOpcode := by decide

theorem test_table_words : decodeTableWord 32 1 = some .init ∧ decodeTableWord 32 2 = some .wblk ∧
    decodeTableWord 32 3 = some .close ∧ decodeTableWord 32 0x101 = none := by decide

/-! ### The step runs a table row's word as the first instruction after reset -/

theorem test_fetch : step (State.reset.withFetchWord 32 1) = exec .init State.reset ∧
    step (State.reset.withFetchWord 32 2) = exec .wblk State.reset ∧
    step (State.reset.withFetchWord 32 3) = exec .close State.reset := ⟨rfl, rfl, rfl⟩

/-! ### Checksums -/

/-- V2, V5, V7, V8. -/
theorem test_adler32 : adler32 [0x00] = 0x00010001 ∧ adler32 [0x11, 0x22] = 0x00460034 ∧
    adler32 [0x57, 0x69, 0x6B, 0x69, 0x70, 0x65, 0x64, 0x69, 0x61] = 0x11E60398 ∧
    adler32 (List.replicate 4 0xFF) = 0x09FA03FD := by decide +kernel

/-- V2, V5, V7, V8. -/
theorem test_crc32 : crc32 [0x00] = 0xD202EF8D ∧ crc32 [0x11, 0x22] = 0xC760700B ∧
    crc32 [0x57, 0x69, 0x6B, 0x69, 0x70, 0x65, 0x64, 0x69, 0x61] = 0xADAAC02E ∧
    crc32 (List.replicate 4 0xFF) = 0xFFFFFFFF := by decide +kernel

/-- V9a: a wraps. -/
theorem test_adler32_wraps : adler32 (List.replicate 257 0xFF) = 0x080F000F := by decide +kernel

/-- After "AA" (end of section 2): adler 0x00C50083, crc 0xA9601DBD. -/
theorem test_checksums_midway : adlerRead (adlerUpdate adlerReset [0x41, 0x41]) = 0x00C50083 ∧
    crcRead (crcUpdate crcReset [0x41, 0x41]) = 0xA9601DBD := by decide +kernel

/-- A parameter that names another function (rule R6; U19) is not taken as rule R131's. -/
theorem test_other_checksum :
    adler32Of { p0 with adlerFunction := .other 3 } [0x41] = otherChecksum 3 [0x41] ∧
    adler32Of p0 [0x41] = 0x00420042 := ⟨rfl, by decide⟩

/-! ### INIT -/

/-- V11: every supplied bit outside FLAG_MASK is dropped; all 38 bytes. -/
theorem test_init_header :
    nextOf (fun t => (t.status.word, t.flags, t.sink.accepted))
      (exec .init (State.cfg fresh 0xFFFFFFFF 0x00000501 0x000081A4 0)) =
    some (0x00000001, 0x00000303, ([0x89, 0x4C, 0x5A, 0x4F, 0x00, 0x0D, 0x0A, 0x1A, 0x0A,
      0x10, 0x10, 0x20, 0x60, 0x09, 0x40, 0x01, 0x05, 0x00, 0x00, 0x03, 0x03, 0x00, 0x00, 0x81, 0xA4,
      0x00, 0x00, 0x00, 0x00, 0x00, 0x00, 0x00, 0x00, 0x00, 0x20, 0xBD, 0x02, 0x1B] : List Byte).map
        SinkRequest.data) := by decide +kernel

/-- V17d (the two bytes of x5 swapped) and V18d (request 35 fails: FLAGS latched, 34 accepted). -/
theorem test_init_failures :
    nextOf summary (exec .init (State.cfg fresh 0x303 0x00000105 0x81A4 0)) =
      some (0x00000224, 0, 0) ∧
    nextOf summary (exec .init (State.withSink (State.cfg fresh 0xFFFFFFFF 0x501 0x81A4 0)
      (sinkFailing 34))) = some (0x00000114, 0x303, 34) := by decide +kernel

/-! ### WBLK -/

/-- V27: compressed chosen, all four checksums. -/
theorem test_wblk_record :
    nextOf (fun t => (t.status.word, t.sink.accepted)) (exec .wblk (State.chunk opened 16 16 2 12)) =
    some (0x00000001, ([0x00, 0x00, 0x00, 0x10, 0x00, 0x00, 0x00, 0x0C, 0x22, 0x98, 0x04, 0x11,
      0xBB, 0x04, 0x57, 0x0B, 0x06, 0x4F, 0x00, 0xCA, 0xB4, 0xD9, 0x46, 0xD3,
      0x15, 0x41, 0x20, 0x00, 0x00, 0x00, 0x00, 0x01, 0x41, 0x11, 0x00, 0x00] : List Byte).map
        SinkRequest.data) := by decide +kernel

/-- V26 (raw chosen, 28 bytes), V31, V35c, V35e (operand admission), V36c (request 5 fails). -/
theorem test_wblk_cases :
    nextOf summary (exec .wblk (State.chunk opened 4 12 2 14)) = some (0x00000001, 0x303, 28) ∧
    nextOf summary (exec .wblk (State.chunk opened 0 4 17 0)) = some (0x00000509, 0x303, 0) ∧
    nextOf summary (exec .wblk (State.chunk opened 0 4 0 0xFFFFFFFF)) =
      some (0x00000509, 0x303, 0) ∧
    nextOf summary (exec .wblk (State.chunk opened 0xFFFFFFFF 2 0 0)) =
      some (0x00000509, 0x303, 0) ∧
    nextOf summary (exec .wblk (State.withSink (State.chunk opened 0 4 0 2) (sinkFailing 4))) =
      some (0x00000115, 0x303, 4) := by decide +kernel

/-! ### CLOSE -/

/-- V40, the first and the second CLOSE. -/
theorem test_close_once :
    nextOf (fun t => (t.status.word, t.sink.accepted)) (exec .close opened) =
      some (0x00000003, [.flush, .data 0, .data 0, .data 0, .data 0, .close]) ∧
    nextOf summary (exec .close closed) = some (0x00000003, 0x303, 0) := by decide +kernel

/-- V44 (SinkClose fails), V45 (right after reset), and CLOSE after V36d (cc = 4). -/
theorem test_close_failures :
    nextOf (fun t => (t.status.word, t.sink.accepted))
      (exec .close (State.withSink opened (sinkFailing 5))) =
      some (0x00000115, [.flush, .data 0, .data 0, .data 0, .data 0]) ∧
    nextOf summary (exec .close fresh) = some (0x00000308, 0, 0) ∧
    nextOf summary (exec .close failed) = some (0x0000041D, 0x303, 0) := by decide +kernel

/-! ### The port -/

/-- The state whose next event is `e`. -/
def State.next (s : State) (e : PortEvent) : State := s.withPending [e]

/-- V55 to V58: STATUS, FLAGS and reserved indices ignore writes; CMD and reserved indices read 0. -/
theorem test_port_ignored :
    nextOf summary (step (State.next failed (.hwrite 9 0xFFFFFFFF))) = some (0x115, 0x303, 0) ∧
    nextOf summary (step (State.next closed (.hwrite 10 0))) = some (0x3, 0x303, 0) ∧
    nextOf (fun t => t.host.returned) (step (State.next fresh (.hread 8))) = some [0] ∧
    nextOf (fun t => t.host.returned) (step (State.next fresh (.hread 12))) = some [0] := by
  decide +kernel

/-- V54 (decoding comes first) and V59 (an operand register is written even in state Failed). -/
theorem test_port_failed :
    nextOf summary (step (State.next failed (.hwrite 8 0xFF))) = some (0x61D, 0x303, 0) ∧
    nextOf (fun t => t.x[3]) (step (State.next failed (.hwrite 3 0xDEADBEEF))) =
      some 0xDEADBEEF := by decide +kernel

/-- V70: reset out of state Failed. -/
theorem test_port_reset :
    nextOf (fun t => (summary t, t.x[1])) (step (State.next (State.chunk failed 0 16 0 0) .reset)) =
      some ((0, 0, 0), 0) := by decide +kernel

/-! ### Witnesses: the hypotheses of every statement that has any can be met -/

theorem buffers_fresh : BuffersOk fresh := ⟨by decide, by decide, by decide, by decide⟩

/-- 60 requests are answered OK. -/
theorem answers_ok {n : Nat} (h : n ≤ 60) : AnswersOk fresh.sink n := by
  have h60 : ∀ j < 60, (sinkFailing 60).answerAt j = .ok := by decide
  exact fun j hj => h60 j (by omega)

theorem answers_err {n : Nat} (h : n < 60) : AnswersThen (sinkFailing n) n .err := by
  have h60 : ∀ n < 60, (∀ j < n, (sinkFailing n).answerAt j = .ok) ∧
    (sinkFailing n).answerAt n = .err := by decide +kernel
  exact h60 n h

/-- A sink that answers OK `n` times and then not at all, whatever the oracle says. -/
def sinkSilent (n : Nat) : Sink :=
  { accepted := [], earlier := [], script := List.replicate n .ok ++ [.silent], asked := 0 }

theorem answers_silent {n : Nat} (h : n < 60) : AnswersThen (sinkSilent n) n .silent := by
  have h60 : ∀ n < 60, (∀ j < n, (sinkSilent n).answerAt j = .ok) ∧
    (sinkSilent n).answerAt n = .silent := by decide +kernel
  exact h60 n h

/-- A command left waiting: CLOSE, whose fourth request is not answered. -/
def waitingClose : State := (State.withSink opened (sinkSilent 3)).afterClose

theorem witness_DecodeAndEncodeAgree :
    (∀ i ∈ [Instr.init, .wblk, .close], i.wellFormed = true) ∧
    decode 1 = .ok .init ∧ decode 2 = .ok .wblk ∧ decode 3 = .ok .close := by decide

theorem witness_StepRunsDecodedCommand :
    opened.waiting = false ∧ (State.next opened (.hwrite 8 2)).host.pending = [.hwrite 8 2] ∧
    decode 2 = .ok .wblk ∧ Instr.wblk.wellFormed = true := ⟨rfl, rfl, by decide, rfl⟩

theorem witness_ReservedWordIsRejected :
    (State.next opened (.hwrite 8 0x101)).waiting = false ∧
    (State.next opened (.hwrite 8 0x101)).host.pending = [.hwrite 8 0x101] ∧
    (0x101 : Word).extractLsb' 8 24 ≠ 0 ∧ (0 : Word).extractLsb' 0 8 = 0 ∧
    4 ≤ ((4 : Word).extractLsb' 0 8).toNat ∧ 4 ≤ ((0xFF : Word).extractLsb' 0 8).toNat :=
  ⟨rfl, rfl, by decide, by decide, by decide, by decide⟩

/-- Indices 0, 7; 8 with a command and with a reserved word; 9, 15. -/
theorem witness_HostWriteRule :
    (∀ i : Fin 16, (State.next fresh (.hwrite i 4)).waiting = false ∧
      (State.next fresh (.hwrite i 4)).host.pending = [.hwrite i 4]) ∧
    (0 : Fin 16).val < 8 ∧ (7 : Fin 16).val < 8 ∧ (8 : Fin 16).val = 8 ∧ 9 ≤ (9 : Fin 16).val ∧
    9 ≤ (15 : Fin 16).val ∧ decode 1 = .ok .init ∧ decode 4 = .error .reservedOpcode :=
  ⟨fun _ => ⟨rfl, rfl⟩, by decide⟩

theorem witness_HostReadRule :
    (∀ i : Fin 16, (State.next fresh (.hread i)).waiting = false ∧
      (State.next fresh (.hread i)).host.pending = [.hread i]) ∧
    (0 : Fin 16).val < 8 ∧ (7 : Fin 16).val < 8 ∧ (8 : Fin 16).val = 8 ∧ (9 : Fin 16).val = 9 ∧
    (10 : Fin 16).val = 10 ∧ 11 ≤ (11 : Fin 16).val ∧ 11 ≤ (15 : Fin 16).val :=
  ⟨fun _ => ⟨rfl, rfl⟩, by decide⟩

theorem witness_OperandRegisterReadsBack :
    (fresh.withPending [.hwrite 7 5, .hread 7]).waiting = false ∧
    (fresh.withPending [.hwrite 7 5, .hread 7]).host.pending = [.hwrite 7 5, .hread 7] ∧
    (7 : Fin 16).val < 8 := ⟨rfl, rfl, by decide⟩

theorem witness_IdleBlockHoldsState : opened.host.pending = [] := rfl

/-- A waiting state and one that does not wait. -/
theorem witness_ResetEvent :
    (State.next waitingClose .reset).host.pending = [.reset] ∧
    (State.next waitingClose .reset).waiting = true ∧
    (State.next failed .reset).host.pending = [.reset] ∧
    (State.next failed .reset).waiting = false := ⟨rfl, by decide +kernel, rfl, rfl⟩

/-- The first and the last address of both spaces. -/
theorem witness_PlacedByteReadsBack :
    (∀ sp a b, (State.next fresh (.place sp a b)).waiting = false ∧
      (State.next fresh (.place sp a b)).host.pending = [.place sp a b] ∧
      BuffersOk (State.next fresh (.place sp a b))) ∧
    (0 < spaceSize p0 .raw ∧ 31 < spaceSize p0 .raw) ∧
    (0 < spaceSize p0 .cand ∧ 15 < spaceSize p0 .cand) :=
  ⟨fun _ _ _ => ⟨rfl, rfl, buffers_fresh.raw_wf, buffers_fresh.cand_wf, buffers_fresh.raw_within,
    buffers_fresh.cand_within⟩, by decide⟩

theorem witness_PlacingOutsideSpaceFaults :
    (State.next fresh (.place .cand 16 7)).waiting = false ∧
    (State.next fresh (.place .cand 16 7)).host.pending = [.place .cand 16 7] ∧
    spaceSize (State.next fresh (.place .cand 16 7)).params .cand ≤ 16 := ⟨rfl, rfl, by decide⟩

/-- The first and the last byte of a range. -/
theorem witness_MemReadIsByteRange : 0 < 4 ∧ 3 < 4 := by decide

theorem witness_Crc32DetectsSingleByteChange : (0 : Byte) ≠ 0x80 := by decide

theorem witness_ChecksumWorkedExamples :
    p0.adlerFunction = .reference ∧ p0.crcFunction = .reference := ⟨rfl, rfl⟩

theorem witness_EmptyChunkRecord :
    p0.adlerFunction = .reference ∧ p0.crcFunction = .reference := ⟨rfl, rfl⟩

/-- All answers OK; the first and the last request answered ERR. -/
theorem witness_EmitGrowsTraceOrStopsAtFirstError :
    AnswersOk fresh.sink helloBytes.length ∧
    (0 < helloBytes.length ∧ AnswersThen (sinkFailing 0) 0 .err) ∧
    (11 < helloBytes.length ∧ AnswersThen (sinkFailing 11) 11 .err) :=
  ⟨answers_ok (by decide), ⟨by decide, answers_err (by decide)⟩, by decide, answers_err (by decide)⟩

theorem witness_InitCompletes :
    let s := State.cfg fresh 0x303 0x501 0 0
    s.status.fault = false ∧ s.status.constructed = false ∧
    s.x[5].extractLsb' 0 8 = s.params.algoLzo1x ∧ s.x[5].extractLsb' 8 8 = s.params.levelLzo1x ∧
    AnswersOk s.sink 38 := ⟨rfl, rfl, by decide, by decide, answers_ok (by decide)⟩

/-- A state for each row; the first and the last request answered ERR. -/
theorem witness_InitExceptions :
    failed.status.fault = true ∧
    (opened.status.fault = false ∧ opened.status.constructed = true) ∧
    (fresh.status.fault = false ∧ fresh.status.constructed = false ∧
      fresh.x[5].extractLsb' 0 8 ≠ fresh.params.algoLzo1x) ∧
    (∀ n, n = 0 ∨ n = 37 →
      let s := State.withSink (State.cfg fresh 0x303 0x501 0 0) (sinkFailing n)
      s.status.fault = false ∧ s.status.constructed = false ∧
      s.x[5].extractLsb' 0 8 = s.params.algoLzo1x ∧ s.x[5].extractLsb' 8 8 = s.params.levelLzo1x ∧
      1 ≤ n + 1 ∧ n + 1 ≤ 38 ∧ AnswersThen s.sink (n + 1 - 1) .err) :=
  have h1 : (State.cfg fresh 0x303 0x501 0 0).x[5].extractLsb' 0 8 = p0.algoLzo1x := by decide
  have h2 : (State.cfg fresh 0x303 0x501 0 0).x[5].extractLsb' 8 8 = p0.levelLzo1x := by decide
  ⟨rfl, ⟨rfl, rfl⟩, ⟨rfl, rfl, by decide⟩, fun n hn => ⟨rfl, rfl, h1, h2, by omega, by omega,
    answers_err (by omega)⟩⟩

/-- Ranges that just fit: compressed chosen (CAND 4 .. 15) and raw chosen (RAW 16 .. 31). The records
have 36 and 32 bytes (rule R104). -/
theorem witness_WblkCompletes :
    ∀ x3 : Word, x3 = 12 ∨ x3 = 0x7FFFFFFF →
    let s := State.chunk opened 16 16 4 x3
    s.status.fault = false ∧ s.status.constructed = true ∧ s.status.closed = false ∧
    s.x[1].toNat ≤ 0x7FFFFFFF ∧ s.x[3].toNat ≤ 0x7FFFFFFF ∧
    s.x[0].toNat + s.x[1].toNat ≤ s.params.rawSize ∧
    (s.x[3].toNat < s.x[1].toNat → s.x[2].toNat + s.x[3].toNat ≤ s.params.candSize) ∧
    AnswersOk s.sink 40 := by
  rintro x3 (rfl | rfl) <;>
    exact ⟨rfl, rfl, rfl, by decide, by decide, by decide, by decide, answers_ok (by decide)⟩

theorem witness_WblkOperandAdmission :
    opened.status.fault = false ∧ opened.status.constructed = true ∧
    opened.status.closed = false := ⟨rfl, rfl, rfl⟩

/-- A state for each row; each operand test at its first bad value; the first and the last request of
a 26-byte record answered ERR. -/
theorem witness_WblkExceptions :
    failed.status.fault = true ∧
    (fresh.status.fault = false ∧ fresh.status.constructed = false) ∧
    (closed.status.fault = false ∧ closed.status.closed = true) ∧
    ((State.chunk opened 0 0x80000000 0 0).x[1].toNat > 0x7FFFFFFF ∧
      (State.chunk opened 0 4 0 0x80000000).x[3].toNat > 0x7FFFFFFF ∧
      (State.chunk opened 33 0 0 0).x[0].toNat + (State.chunk opened 33 0 0 0).x[1].toNat > p0.rawSize ∧
      (State.chunk opened 0 4 15 2).x[2].toNat + (State.chunk opened 0 4 15 2).x[3].toNat >
        p0.candSize) ∧
    (State.chunk opened 0 4 0 2).operandsInadmissible = false ∧
    (State.chunk opened 0 4 0 2).record.length = 26 ∧
    AnswersThen (State.withSink opened (sinkFailing 0)).sink (1 - 1) .err ∧
    AnswersThen (State.withSink opened (sinkFailing 25)).sink (26 - 1) .err :=
  ⟨rfl, ⟨rfl, rfl⟩, ⟨rfl, rfl⟩, by decide, by decide, by decide +kernel, answers_err (by decide),
    answers_err (by decide)⟩

theorem witness_BlockRecordLength :
    p0.wf ∧ helloBytes.length = (12 : Word).toNat ∧
    ((2 : Word).toNat < (12 : Word).toNat → ([0x11, 0x22] : List Byte).length = (2 : Word).toNat) := by
  decide

/-- Compressed chosen with one byte less, and raw chosen at equality. -/
theorem witness_StoredLengthMarksRawPayload :
    (if (3 : Word).toNat < (4 : Word).toNat then (3 : Word) else 4) ≠ 4 ∧
    (if (4 : Word).toNat < (4 : Word).toNat then (4 : Word) else 4) = 4 := by decide

theorem witness_CandidateUnreadWhenRawChosen :
    ¬ (State.chunk opened 0 4 12 4).x[3].toNat < (State.chunk opened 0 4 12 4).x[1].toNat ∧
    exec .wblk (State.chunk opened 0 4 12 4) = .next (State.chunk opened 0 4 12 4).afterWblk :=
  ⟨by decide, rfl⟩

theorem witness_RepeatedWblkRepeatsRecord :
    let s := State.chunk opened 0 4 0 2
    s.status.fault = false ∧ s.status.constructed = true ∧ s.status.closed = false ∧
    s.operandsInadmissible = false ∧ AnswersOk s.sink (2 * s.record.length) :=
  ⟨rfl, rfl, rfl, by decide, answers_ok (by decide +kernel)⟩

theorem witness_CloseCompletes :
    opened.status.fault = false ∧ opened.status.constructed = true ∧
    opened.status.closed = false ∧ AnswersOk opened.sink 6 :=
  ⟨rfl, rfl, rfl, answers_ok (by decide)⟩

theorem witness_RepeatedCloseIsNoOp :
    closed.status.fault = false ∧ closed.status.constructed = true ∧
    closed.status.closed = true ∧ exec .wblk closed = .next closed.afterWblk :=
  ⟨rfl, rfl, rfl, rfl⟩

/-- A state for each row, a CLOSE that closes, and each of the six requests answered ERR. -/
theorem witness_CloseExceptions :
    failed.status.fault = true ∧
    (fresh.status.fault = false ∧ fresh.status.constructed = false) ∧
    (opened.status.fault = false ∧ opened.status.constructed = true ∧
      opened.status.closed = false) ∧
    (exec .close opened = .next opened.afterClose ∧ opened.afterClose.status.closed = true) ∧
    ∀ k < 6, AnswersThen (State.withSink opened (sinkFailing k)).sink k .err :=
  ⟨rfl, ⟨rfl, rfl⟩, ⟨rfl, rfl, rfl⟩, ⟨rfl, by decide +kernel⟩, fun _ hk => answers_err (by omega)⟩

theorem witness_CommandsLeaveOperandRegisters :
    exec .init fresh = .next fresh.afterInit ∧ exec .wblk opened = .next opened.afterWblk ∧
    exec .close opened = .next opened.afterClose := ⟨rfl, rfl, rfl⟩

/-- INIT in Open leaves FLAGS; WBLK and CLOSE run; CLOSE in Closed and a command in Failed. -/
theorem witness_CommandsFrame :
    exec .init opened = .next opened.afterInit ∧ opened.status.constructed = true ∧
    exec .wblk opened = .next opened.afterWblk ∧ opened.afterWblk.waiting = false ∧
    exec .close closed = .next closed.afterClose ∧ closed.status.closed = true ∧
    exec .close failed = .next failed.afterClose ∧ failed.status.fault = true ∧
    fresh.afterClose.status.rej = true ∧
    exec .wblk fresh.afterClose = .next fresh.afterClose.afterWblk :=
  ⟨rfl, rfl, rfl, by decide +kernel, rfl, rfl, rfl, rfl, rfl, rfl⟩

theorem witness_RejectionChangesOnlyLastccAndRej :
    exec .wblk fresh = .next fresh.afterWblk ∧ fresh.afterWblk.waiting = false ∧
    3 ≤ fresh.afterWblk.status.lastcc.toNat ∧ decode 4 = .error .reservedOpcode ∧
    exec .init fresh = .next fresh.afterInit ∧ fresh.afterInit.waiting = false ∧
    fresh.afterInit.status.lastcc.toNat < 3 :=
  ⟨rfl, rfl, by decide, by decide, rfl, by decide +kernel, by decide +kernel⟩

theorem witness_CompletionCodesPerCommand :
    (opened.status.closed = true → opened.status.constructed = true) ∧
    exec .close opened = .next opened.afterClose ∧ opened.afterClose.waiting = false ∧
    (opened.afterInit.status.lastcc = 3 ∧ exec .init opened = .next opened.afterInit) ∧
    decode 4 = .error .reservedOpcode ∧ issue 4 opened = .next (opened.reject .errOpcode) :=
  ⟨fun _ => rfl, rfl, by decide +kernel, ⟨by decide, rfl⟩, by decide, rfl⟩

/-- A state for each row of the table. -/
theorem witness_LifecycleTransitionTable :
    fresh.lifecycle = .unconstructed ∧ opened.lifecycle = .opened ∧ closed.lifecycle = .closed ∧
    failed.lifecycle = .failed ∧
    ∀ s ∈ [fresh, opened, closed, failed],
      s.waiting = false ∧ (∀ i, SinkAnswers s.sink (requestCount i s)) ∧
      (s.status.closed = true → s.status.constructed = true) := by
  refine ⟨rfl, rfl, rfl, rfl, fun s hs => ⟨?_, fun i j hj => ?_, ?_⟩⟩
  · simp only [List.mem_cons, List.not_mem_nil, or_false] at hs
    rcases hs with rfl | rfl | rfl | rfl <;> rfl
  · have hk : s.sink = sinkFailing 60 := by
      simp only [List.mem_cons, List.not_mem_nil, or_false] at hs
      rcases hs with rfl | rfl | rfl | rfl <;> rfl
    have hn : requestCount i s ≤ 60 := by
      simp only [List.mem_cons, List.not_mem_nil, or_false] at hs
      rcases hs with rfl | rfl | rfl | rfl <;> cases i <;> decide +kernel
    have h := answers_ok hn j hj
    rw [hk]
    exact fun hc => by rw [show fresh.sink = sinkFailing 60 from rfl, hc] at h; simp at h
  · simp only [List.mem_cons, List.not_mem_nil, or_false] at hs
    rcases hs with rfl | rfl | rfl | rfl <;> decide

/-- Each of the five conditions of rule R249, and none of them: a sink that answers OK to all of a
command's requests, and one that answers ERR to the first or to the last. -/
theorem witness_FirstConditionIsReported :
    (∀ w s, (w, s) ∈ [((4 : Word), failed), (1, failed), (3, fresh),
        (2, State.chunk opened 33 0 0 0), (1, fresh), (3, opened)] →
      ∃ t, issue w s = .next t ∧ t.waiting = false) ∧
    (failed.status.fault = true) ∧
    (fresh.status.fault = false ∧ fresh.status.constructed = false) ∧
    ((State.chunk opened 33 0 0 0).operandsInadmissible = true ∧
      (State.chunk opened 33 0 0 0).status.closed = false) ∧
    fresh.algo ≠ fresh.params.algoLzo1x ∧ decode 3 = .ok .close ∧
    AnswersOk opened.sink (requestCount .close opened) ∧
    ∀ n, n = 0 ∨ n = 5 → n < requestCount .close opened ∧
      AnswersThen (State.withSink opened (sinkFailing n)).sink n .err := by
  refine ⟨fun w s h => ?_, rfl, ⟨rfl, rfl⟩, by decide, by decide, by decide, answers_ok (by decide),
    fun n hn => ⟨by simp only [requestCount]; omega, answers_err (by omega)⟩⟩
  simp only [List.mem_cons, Prod.mk.injEq, List.not_mem_nil, or_false] at h
  rcases h with ⟨rfl, rfl⟩ | ⟨rfl, rfl⟩ | ⟨rfl, rfl⟩ | ⟨rfl, rfl⟩ | ⟨rfl, rfl⟩ | ⟨rfl, rfl⟩ <;>
    exact ⟨_, rfl, by decide +kernel⟩

theorem witness_FailedStateRejectsEveryCommand :
    failed.status.fault = true ∧ decode 0xFF = .error .reservedOpcode ∧ (7 : Fin 16).val < 8 ∧
    (9 : Fin 16).val = 9 ∧ (10 : Fin 16).val = 10 := ⟨rfl, by decide, by decide, rfl, rfl⟩

/-- A step in Closed and a step in Failed, each a write to CMD. -/
theorem witness_NoRequestAfterCloseOrFailure :
    ∀ s ∈ [State.next closed (.hwrite 8 3), State.next failed (.hwrite 8 3)],
      (s.status.closed = true → s.status.constructed = true) ∧ (∃ t, step s = .next t) ∧
      (∀ es, s.host.pending ≠ .reset :: es) ∧ (s.status.closed = true ∨ s.status.fault = true) := by
  intro s hs
  simp only [List.mem_cons, List.not_mem_nil, or_false] at hs
  rcases hs with rfl | rfl
  · exact ⟨fun _ => rfl, ⟨_, rfl⟩, by simp [State.next, State.withPending], .inl rfl⟩
  · exact ⟨fun _ => rfl, ⟨_, rfl⟩, by simp [State.next, State.withPending], .inr rfl⟩

/-- A step in Failed, with REJ set as well. -/
theorem witness_StickyUntilReset :
    let s := State.next failed.afterClose (.hwrite 8 2)
    (∃ t, step s = .next t) ∧ (∀ es, s.host.pending ≠ .reset :: es) ∧ s.status.fault = true ∧
    s.status.rej = true ∧ s.status.constructed = true :=
  ⟨⟨_, rfl⟩, by simp [State.next, State.withPending], rfl, rfl, rfl⟩

theorem witness_AcceptedTraceOnlyGrows :
    (∃ t, step (State.next opened (.hwrite 8 2)) = .next t) ∧
    (∀ es, (State.next opened (.hwrite 8 2)).host.pending ≠ .reset :: es) ∧
    (∃ t, step (State.next opened .reset) = .next t) :=
  ⟨⟨_, rfl⟩, by simp [State.next, State.withPending], _, rfl⟩

/-- A sink that answers ERR at the last request the command makes. -/
theorem witness_CommandsCompleteIfSinkAnswers :
    let s := State.withSink opened (sinkFailing 5)
    s.waiting = false ∧ SinkAnswers s.sink (requestCount .close s) := by
  have h6 : ∀ j < 6, (sinkFailing 5).answerAt j ≠ .silent := by decide
  exact ⟨rfl, h6⟩

/-- CLOSE left waiting at its fourth request; the first and the last request of each command left
unanswered (INIT has 38, this WBLK 26, CLOSE 6). -/
theorem witness_SilentSinkBlocksUntilReset :
    (opened.waiting = false ∧
      exec .close (State.withSink opened (sinkSilent 3)) = .next waitingClose ∧
      waitingClose.waiting = true ∧ ∀ es, waitingClose.host.pending ≠ .reset :: es) ∧
    (∀ n, n = 0 ∨ n = 37 →
      let s := State.withSink (State.cfg fresh 0x303 0x501 0 0) (sinkSilent n)
      s.status.fault = false ∧ s.status.constructed = false ∧
      s.x[5].extractLsb' 0 8 = s.params.algoLzo1x ∧ s.x[5].extractLsb' 8 8 = s.params.levelLzo1x ∧
      n < requestCount .init s ∧ AnswersThen s.sink n .silent) ∧
    (∀ n, n = 0 ∨ n = 25 →
      let s := State.withSink (State.chunk opened 0 4 0 2) (sinkSilent n)
      s.status.fault = false ∧ s.status.constructed = true ∧ s.status.closed = false ∧
      s.operandsInadmissible = false ∧ n < requestCount .wblk s ∧
      AnswersThen s.sink n .silent) ∧
    ∀ n, n = 0 ∨ n = 5 →
      let s := State.withSink opened (sinkSilent n)
      s.status.fault = false ∧ s.status.constructed = true ∧ s.status.closed = false ∧
      n < requestCount .close s ∧ AnswersThen s.sink n .silent := by
  refine ⟨⟨rfl, rfl, by decide +kernel, ?_⟩, ?_, ?_, ?_⟩
  · have h : waitingClose.host.pending = [] := by decide +kernel
    simp [h]
  · rintro n (rfl | rfl) <;>
      exact ⟨rfl, rfl, by decide, by decide, by decide, answers_silent (by decide)⟩
  · rintro n (rfl | rfl) <;>
      exact ⟨rfl, rfl, rfl, by decide, by decide +kernel, answers_silent (by decide)⟩
  · rintro n (rfl | rfl) <;> exact ⟨rfl, rfl, rfl, by decide, answers_silent (by decide)⟩

/-- The fixture right after reset meets the invariant. -/
theorem invariant_fresh : Invariant fresh where
  params_wf := test_wf_p0
  registers :=
    { closed_constructed := by decide
      closed_healthy := by decide
      healthy_cause := by decide
      failed_cause := by decide
      lastcc_defined := by decide
      rejected_recorded := by decide
      flags_masked := by decide
      flags_unlatched := by decide
      format_unlatched := by decide
      hacc_transient := by decide
      waiting_admitted := by decide }
  accumulators :=
    { adlerD_present := by decide
      crcD_present := by decide
      adlerC_present := by decide
      crcC_present := by decide
      adlerD_inRange := by decide
      adlerC_inRange := by decide
      hacc_inRange := by decide }
  buffers := buffers_fresh
  trace :=
    { unconstructed_empty := fun _ _ => rfl
      opened_stream := fun h => absurd h (by decide)
      closed_stream := fun h => absurd h (by decide)
      prefix_stream := ⟨0, _, by decide, ⟨_, ⟨0, 0, [], by simp, rfl⟩, rfl⟩, List.nil_prefix,
        fun _ => by simp [fresh, sinkFailing]⟩
      waiting_stream := fun h => absurd h (by decide)
      format_empty := fun h => absurd h (by decide) }

/-- The invariant holds of a state whose next event is a command. -/
theorem witness_StepKeepsInvariant :
    Invariant (State.next fresh (.hwrite 8 1)) ∧ ∃ t, step (State.next fresh (.hwrite 8 1)) = .next t := by
  obtain ⟨h1, ⟨a1, a2, a3, a4, a5, a6, a7, a8, a9, a10, a11⟩, ⟨b1, b2, b3, b4, b5, b6, b7⟩,
    ⟨c1, c2, c3, c4⟩, ⟨d1, d2, d3, d4, d5, d6⟩⟩ := invariant_fresh
  exact ⟨⟨h1, ⟨a1, a2, a3, a4, a5, a6, a7, a8, a9, a10, a11⟩, ⟨b1, b2, b3, b4, b5, b6, b7⟩,
    ⟨c1, c2, c3, c4⟩, ⟨d1, d2, d3, d4, d5, d6⟩⟩, _, rfl⟩

/-- Right after reset, the host about to write x5, INIT and CLOSE. -/
def aboutToWriteEmptyStream : State :=
  fresh.withPending [.hwrite 5 0x501, .hwrite 8 1, .hwrite 8 3]

theorem justReset_fresh (es : List PortEvent) : JustReset (fresh.withPending es) :=
  ⟨rfl, show State.reset.status.word = 0 by decide, rfl, rfl, rfl, rfl, rfl, test_wf_p0,
    ⟨buffers_fresh.raw_wf, buffers_fresh.cand_wf, buffers_fresh.raw_within,
      buffers_fresh.cand_within⟩⟩

/-- The state after the first step, and after the second, and after the third (P1's first lines). -/
def afterStep (s : State) : State := (nextOf id (step s)).getD s

theorem reaches_closed :
    let t := afterStep (afterStep (afterStep aboutToWriteEmptyStream))
    Reaches aboutToWriteEmptyStream t ∧ t.status.closed = true :=
  ⟨.step (.step (.step .start rfl) rfl) rfl, by decide +kernel⟩

/-- A run that ends Closed, and one that does not. -/
theorem witness_ClosedMeansCompleteStream :
    JustReset aboutToWriteEmptyStream ∧
    (∃ t, Reaches aboutToWriteEmptyStream t ∧ t.status.closed = true) ∧
    (∃ t, Reaches aboutToWriteEmptyStream t ∧ t.status.closed = false) :=
  ⟨justReset_fresh _, ⟨_, reaches_closed⟩, _, .start, rfl⟩

theorem witness_AtMostOneSinkClose :
    JustReset aboutToWriteEmptyStream ∧
    (∃ t, Reaches aboutToWriteEmptyStream t ∧ t.status.closed = true) :=
  ⟨justReset_fresh _, _, reaches_closed⟩

end Sys2Proof.Tests
end

section
/-! PROOFS. The shape of the stream (rules R16, R96): what an open stream becomes by one more record or
by CLOSE's six requests, and the beginnings of a complete stream that are not the whole of it. -/

namespace Sys2Proof.Safety

open Sys2Proof.Machine

variable {p : Params} {flags : Word} {trace reqs : List SinkRequest} {bytes : List Byte}

/-- An open stream holds data requests only. -/
theorem IsOpenStream.close_notMem (h : IsOpenStream p flags trace) : .close ∉ trace := by
  obtain ⟨mode, mtime, records, -, rfl⟩ := h
  simp

/-- MAGIC and a Header Record alone are an open stream, that of no chunk. -/
theorem isOpenStream_header (p : Params) (flags mode mtime : Word) :
    IsOpenStream p flags (emitRequests
      (p.magic.toList ++ headerRecord p p.algoLzo1x p.levelLzo1x flags mode mtime)) :=
  ⟨mode, mtime, [], by simp, by simp [emitRequests]⟩

theorem IsOpenStream.append_record (h : IsOpenStream p flags trace)
    (hr : IsBlockRecord p flags bytes) : IsOpenStream p flags (trace ++ emitRequests bytes) := by
  obtain ⟨mode, mtime, records, hrecords, rfl⟩ := h
  refine ⟨mode, mtime, records ++ [bytes], fun r hmem => ?_, by simp [emitRequests]⟩
  rcases List.mem_append.1 hmem with hold | hnew
  · exact hrecords r hold
  · rwa [List.mem_singleton.1 hnew]

theorem IsOpenStream.append_close (h : IsOpenStream p flags trace) :
    IsCompleteStream p flags (trace ++ closeRequests) :=
  ⟨trace, h, by rw [closeRequests_eq]⟩

/-- The one CLOSE request of a complete stream is its last request. -/
theorem IsCompleteStream.eq_append_close (h : IsCompleteStream p flags trace) :
    ∃ front, .close ∉ front ∧ trace = front ++ [.close] := by
  obtain ⟨body, hbody, rfl⟩ := h
  exact ⟨body ++ [.flush, .data 0, .data 0, .data 0, .data 0],
    by simp [hbody.close_notMem], by simp⟩

/-- A beginning of some complete stream that is not the whole of it. -/
def IsUnfinished (p : Params) (trace : List SinkRequest) : Prop :=
  ∃ flags whole, flags &&& ~~~ p.flagMask = 0 ∧ IsCompleteStream p flags whole ∧
    trace <+: whole ∧ trace ≠ whole

/-- The last request of a complete stream is its only CLOSE, so no proper beginning holds one. -/
theorem IsUnfinished.not_isCompleteStream (h : IsUnfinished p trace) (flags : Word) :
    ¬ IsCompleteStream p flags trace := by
  intro hcomplete
  obtain ⟨_, whole, -, hwhole, hprefix, hne⟩ := h
  obtain ⟨front, hfront, rfl⟩ := hwhole.eq_append_close
  have hbeginning : trace <+: front := (List.prefix_concat_iff.1 hprefix).resolve_left hne
  obtain ⟨front', -, rfl⟩ := hcomplete.eq_append_close
  exact hfront (hbeginning.subset (by simp))

/-- Requests that lead to a complete stream, cut before the last of them. -/
theorem isUnfinished_take {whole : List SinkRequest} {n : Nat}
    (hflags : flags &&& ~~~ p.flagMask = 0) (hwhole : IsCompleteStream p flags whole)
    (hprefix : trace ++ reqs <+: whole) (hn : n < reqs.length) :
    IsUnfinished p (trace ++ reqs.take n) := by
  have hle := hprefix.length_le
  refine ⟨flags, whole, hflags, hwhole,
    ((List.prefix_append_right_inj trace).2 (List.take_prefix n reqs)).trans hprefix, fun heq => ?_⟩
  have hlen := congrArg List.length heq
  simp only [List.length_append, List.length_take] at hle hlen
  omega

theorem IsOpenStream.isUnfinished (hflags : flags &&& ~~~ p.flagMask = 0)
    (h : IsOpenStream p flags trace) : IsUnfinished p trace := by
  simpa using isUnfinished_take (n := 0) hflags h.append_close (List.prefix_refl _) (by simp)

theorem isUnfinished_nil (p : Params) : IsUnfinished p [] :=
  isUnfinished_take (trace := []) (n := 0) (flags := 0) (by simp)
    (isOpenStream_header p 0 0 0).append_close (List.prefix_refl _) (by simp [closeRequests])

/-! ### The streams the commands make -/

/-- INIT emits an open stream, once its format check has passed (rules R153, R157). -/
theorem initRequests_isOpenStream {s : State} (halgo : s.algo = s.params.algoLzo1x)
    (hlevel : s.level = s.params.levelLzo1x) : IsOpenStream s.params s.flags s.initRequests := by
  rw [State.initRequests, halgo, hlevel]
  exact isOpenStream_header ..

/-- WBLK emits a Block Record, once its operands are admitted (rules R101, R173). -/
theorem record_isBlockRecord {s : State} (h : s.operandsInadmissible = false) :
    IsBlockRecord s.params s.flags s.record := by
  have hops := mt State.operandsInadmissible_eq_true.2 (Bool.eq_false_iff.1 h)
  push Not at hops
  obtain ⟨hraw, hcand, -, -⟩ := hops
  exact ⟨s.rawLen, s.candLen, s.rawBytes, s.candBytes, hraw, hcand, s.rawBytes_length,
    fun hlt => State.candBytes_length (compChosen_eq_true.2 hlt), rfl⟩

end Sys2Proof.Safety
end

section
/-! PROOFS. The accumulators (rules R38, R41): their bound, and what latching FLAGS and using the paths
leave in them. -/

namespace Sys2Proof.Safety

open Sys2Proof.Machine

/-! ### The bound of rule R38 -/

theorem boundedAdler_inRange (content : Fin 65521 × Fin 65521) :
    adlerInRange (boundedAdler content) := by
  obtain ⟨a, b⟩ := content
  constructor <;> simp only [boundedAdler, adlerModulus, BitVec.toNat_ofNat] <;> omega

theorem freeAdler_inRange (path : Path) (tick : Nat) : adlerInRange (freeAdler path tick) :=
  boundedAdler_inRange _

theorem adlerStep_inRange (acc : AdlerAcc) (byte : Byte) : adlerInRange (adlerStep acc byte) := by
  constructor <;> simp only [adlerStep, adlerModulus, BitVec.toNat_ofNat] <;> omega

theorem adlerUpdate_inRange {acc : AdlerAcc} (bytes : List Byte) (h : adlerInRange acc) :
    adlerInRange (adlerUpdate acc bytes) := by
  induction bytes generalizing acc with
  | nil => exact h
  | cons byte rest ih => exact ih (adlerStep_inRange acc byte)

theorem headerAcc_inRange (s : State) : adlerInRange s.headerAcc := by
  unfold State.headerAcc
  split
  · exact adlerUpdate_inRange _ (by decide)
  · exact boundedAdler_inRange _

theorem usedAdler_inRange {path : Path} {tick : Nat} {acc : Option AdlerAcc} :
    ∀ a ∈ usedAdler path tick acc, adlerInRange a := by
  intro a ha
  obtain ⟨_, -, rfl⟩ := Option.map_eq_some_iff.1 ha
  exact freeAdler_inRange path tick

theorem latchedAdler_inRange {present : Bool} {path : Path} {tick : Nat} :
    ∀ a ∈ (if present then some (freeAdler path tick) else none), adlerInRange a := by
  intro a ha
  obtain ⟨-, ⟨⟩⟩ := Option.mem_ite_none_right.1 ha
  exact freeAdler_inRange path tick

/-! ### Presence follows the flags -/

@[simp] theorem usedAdler_isSome (path : Path) (tick : Nat) (acc : Option AdlerAcc) :
    (usedAdler path tick acc).isSome = acc.isSome := by simp [usedAdler]

@[simp] theorem usedCrc_isSome (path : Path) (tick : Nat) (acc : Option CrcAcc) :
    (usedCrc path tick acc).isSome = acc.isSome := by simp [usedCrc]

theorem AccumulatorsOk.latchFlags {s : State} (h : AccumulatorsOk s) :
    AccumulatorsOk s.latchFlags where
  adlerD_present := Bool.eq_iff_iff.2 Option.isSome_ite
  crcD_present := Bool.eq_iff_iff.2 Option.isSome_ite
  adlerC_present := Bool.eq_iff_iff.2 Option.isSome_ite
  crcC_present := Bool.eq_iff_iff.2 Option.isSome_ite
  adlerD_inRange := latchedAdler_inRange
  adlerC_inRange := latchedAdler_inRange
  hacc_inRange := h.hacc_inRange

theorem AccumulatorsOk.usePaths {s : State} (h : AccumulatorsOk s) (comp : Bool) :
    AccumulatorsOk (s.usePaths comp) where
  adlerD_present := by simpa [State.usePaths] using h.adlerD_present
  crcD_present := by simpa [State.usePaths] using h.crcD_present
  adlerC_present := by cases comp <;> simpa [State.usePaths] using h.adlerC_present
  crcC_present := by cases comp <;> simpa [State.usePaths] using h.crcC_present
  adlerD_inRange := usedAdler_inRange
  adlerC_inRange := by
    cases comp
    · exact h.adlerC_inRange
    · exact usedAdler_inRange
  hacc_inRange := h.hacc_inRange

end Sys2Proof.Safety
end

section
/-! PROOFS. The healthy states that are not Closed, and the ways a command ends. A command that the
lifecycle admits starts in a `Healthy` state; its updates keep that, and each of its ends gives back the
invariant. -/

namespace Sys2Proof.Safety

open Sys2Proof.Machine

/-- What holds between commands in every state that is neither Failed nor Closed, and in the middle of
every admitted command: the accepted trace is a beginning of a complete stream but not the whole of it.
It is the part of the invariant that does not depend on CONSTRUCTED, HACC or waiting. -/
structure Healthy (s : State) : Prop where
  params_wf : s.params.wf
  accumulators : AccumulatorsOk s
  buffers : BuffersOk s
  no_fault : s.status.fault = false
  unclosed : s.status.closed = false
  cause_zero : s.status.cause = 0
  lastcc_defined : s.status.lastcc.toNat ≤ 6
  rejected_recorded : 3 ≤ s.status.lastcc.toNat → s.status.rej = true
  flags_masked : s.flags &&& ~~~ s.params.flagMask = 0
  unfinished : IsUnfinished s.params s.sink.accepted

/-! ### The lifecycle state, by the STATUS bits -/

theorem lifecycle_eq_unconstructed_iff {s : State} : s.lifecycle = .unconstructed ↔
    s.status.fault = false ∧ s.status.closed = false ∧ s.status.constructed = false := by
  unfold State.lifecycle Status.lifecycle
  cases s.status.fault <;> cases s.status.closed <;> cases s.status.constructed <;> decide

theorem lifecycle_eq_opened_iff {s : State} : s.lifecycle = .opened ↔
    s.status.fault = false ∧ s.status.closed = false ∧ s.status.constructed = true := by
  unfold State.lifecycle Status.lifecycle
  cases s.status.fault <;> cases s.status.closed <;> cases s.status.constructed <;> decide

theorem lifecycle_eq_closed_iff {s : State} : s.lifecycle = .closed ↔
    s.status.fault = false ∧ s.status.closed = true := by
  unfold State.lifecycle Status.lifecycle
  cases s.status.fault <;> cases s.status.closed <;> cases s.status.constructed <;> decide

/-! ### Into a command -/

section
variable {s : State} (h : Invariant s)
include h

theorem Invariant.isUnfinished (hclosed : s.status.closed = false) :
    IsUnfinished s.params s.sink.accepted := by
  obtain ⟨flags, whole, hflags, hwhole, hprefix, hne⟩ := h.trace.prefix_stream
  exact ⟨flags, whole, hflags, hwhole, hprefix, hne hclosed⟩

theorem Invariant.healthy (hfault : s.status.fault = false) (hclosed : s.status.closed = false) :
    Healthy s where
  params_wf := h.params_wf
  accumulators := h.accumulators
  buffers := h.buffers
  no_fault := hfault
  unclosed := hclosed
  cause_zero := h.registers.healthy_cause hfault
  lastcc_defined := h.registers.lastcc_defined
  rejected_recorded := h.registers.rejected_recorded
  flags_masked := h.registers.flags_masked
  unfinished := h.isUnfinished hclosed

theorem Invariant.hacc_eq_none (hwaiting : s.waiting = false) : s.hacc = none := by
  by_contra hhacc
  obtain ⟨hwaits, -⟩ := h.registers.hacc_transient hhacc
  simp [hwaiting] at hwaits

theorem Invariant.closed_eq_false (hconstructed : s.status.constructed = false) :
    s.status.closed = false :=
  Bool.eq_false_iff.2 fun hclosed => by simp [h.registers.closed_constructed hclosed] at hconstructed

end

/-! ### Updates in the middle of a command -/

section
variable {s : State} (h : Healthy s)
include h

theorem Healthy.withSink {k : Sink} (hk : IsUnfinished s.params k.accepted) :
    Healthy { s with sink := k } :=
  { h with
    accumulators := { h.accumulators with }
    buffers := { h.buffers with }
    unfinished := hk }

theorem Healthy.latchFlags : Healthy s.latchFlags :=
  { h with
    accumulators := h.accumulators.latchFlags
    buffers := { h.buffers with }
    flags_masked := by
      rw [State.latchFlags_flags, State.latchFlags_params, BitVec.and_assoc]
      simp }

theorem Healthy.usePaths (comp : Bool) : Healthy (s.usePaths comp) :=
  { h with
    accumulators := h.accumulators.usePaths comp
    buffers := { h.buffers with } }

theorem Healthy.construct :
    Healthy { s with status := { s.status with constructed := true } } :=
  { h with
    accumulators := { h.accumulators with }
    buffers := { h.buffers with } }

theorem Healthy.withHacc {acc : AdlerAcc} (hacc : adlerInRange acc) :
    Healthy { s with hacc := some acc } :=
  { h with
    accumulators := { h.accumulators with hacc_inRange := by rintro a ⟨⟩; exact hacc }
    buffers := { h.buffers with } }

theorem Healthy.wait : Healthy s.wait :=
  { h with
    accumulators := { h.accumulators with }
    buffers := { h.buffers with } }

end

/-! ### How a command ends -/

theorem code_le_six (cc : CompletionCode) : cc.code.toNat ≤ 6 := by
  cases cc <;> decide

/-- The invariant reads LASTCC and REJ only against each other (rules R241, R245). -/
theorem Invariant.withCompletion {s : State} (h : Invariant s) {rej : Bool} {lastcc : Nibble}
    (hdefined : lastcc.toNat ≤ 6) (hrejected : 3 ≤ lastcc.toNat → rej = true) :
    Invariant { s with status := { s.status with rej := rej, lastcc := lastcc } } where
  params_wf := h.params_wf
  registers :=
    { h.registers with lastcc_defined := hdefined, rejected_recorded := hrejected }
  accumulators := { h.accumulators with }
  buffers := { h.buffers with }
  trace := { h.trace with }

theorem Invariant.reject {s : State} (h : Invariant s) (cc : CompletionCode) :
    Invariant (s.reject cc) :=
  h.withCompletion (code_le_six cc) fun _ => rfl

theorem Invariant.completeOk {s : State} (h : Invariant s) : Invariant s.completeOk :=
  h.withCompletion (code_le_six .ok) fun hge => absurd hge (by decide)

/-- A healthy block meets the invariant if it is blank, waits in INIT, or is constructed with an open
stream that a waiting WBLK or CLOSE has only lengthened. -/
theorem Healthy.invariant {s : State} (h : Healthy s)
    (hhacc : s.hacc ≠ none → s.waiting = true ∧ s.status.constructed = false)
    (hblank : s.status.constructed = false → s.waiting = false →
      s.flags = 0 ∧ s.sink.accepted = [])
    (hconstructed : s.status.constructed = true → ∃ body, IsOpenStream s.params s.flags body ∧
      body <+: s.sink.accepted ∧ (s.waiting = false → s.sink.accepted = body)) :
    Invariant s where
  params_wf := h.params_wf
  registers :=
    { closed_constructed := by simp [h.unclosed]
      closed_healthy := by simp [h.unclosed]
      healthy_cause := fun _ => h.cause_zero
      failed_cause := by simp [h.no_fault]
      lastcc_defined := h.lastcc_defined
      rejected_recorded := h.rejected_recorded
      flags_masked := h.flags_masked
      flags_unlatched := fun hl hw => (hblank (lifecycle_eq_unconstructed_iff.1 hl).2.2 hw).1
      format_unlatched := by simp [h.cause_zero]
      hacc_transient := hhacc
      waiting_admitted := fun _ => ⟨h.no_fault, h.unclosed⟩ }
  accumulators := h.accumulators
  buffers := h.buffers
  trace :=
    { unconstructed_empty := fun hl hw =>
        (hblank (lifecycle_eq_unconstructed_iff.1 hl).2.2 hw).2
      opened_stream := fun hl hw => by
        obtain ⟨body, hbody, -, heq⟩ := hconstructed (lifecycle_eq_opened_iff.1 hl).2.2
        rwa [heq hw]
      closed_stream := by simp [lifecycle_eq_closed_iff, h.unclosed]
      prefix_stream := by
        obtain ⟨flags, whole, hflags, hwhole, hprefix, hne⟩ := h.unfinished
        exact ⟨flags, whole, hflags, hwhole, hprefix, fun _ => hne⟩
      waiting_stream := fun _ hc => by
        obtain ⟨body, hbody, hprefix, -⟩ := hconstructed hc
        exact ⟨body, hbody, hprefix⟩
      format_empty := by simp [h.cause_zero] }

@[simp] theorem raiseFatal_lifecycle (s : State) (cc : CompletionCode) :
    (s.raiseFatal cc).lifecycle = .failed := rfl

/-- A fatal failure ends a command (rules R243, R244); one on the format does before FLAGS and the trace
have changed. -/
theorem Healthy.raiseFatal {s : State} (h : Healthy s) {cc : CompletionCode}
    (hhacc : s.hacc = none) (hwaiting : s.waiting = false) (hcode : cc.code = 1 ∨ cc.code = 2)
    (hformat : cc.code = 2 →
      s.status.constructed = false ∧ s.flags = 0 ∧ s.sink.accepted = []) :
    Invariant (s.raiseFatal cc) where
  params_wf := h.params_wf
  registers :=
    { closed_constructed := by simp [h.unclosed]
      closed_healthy := by simp [h.unclosed]
      healthy_cause := by simp
      failed_cause := fun _ => hcode
      lastcc_defined := code_le_six cc
      rejected_recorded := by rcases hcode with hc | hc <;> simp [hc]
      flags_masked := h.flags_masked
      flags_unlatched := by simp
      format_unlatched := fun hc => ⟨(hformat hc).1, (hformat hc).2.1⟩
      hacc_transient := by simp [hhacc]
      waiting_admitted := by simp [hwaiting] }
  accumulators := { h.accumulators with }
  buffers := { h.buffers with }
  trace :=
    { unconstructed_empty := by simp
      opened_stream := by simp
      closed_stream := by simp
      prefix_stream := by
        obtain ⟨flags, whole, hflags, hwhole, hprefix, hne⟩ := h.unfinished
        exact ⟨flags, whole, hflags, hwhole, hprefix, fun _ => hne⟩
      waiting_stream := by simp [hwaiting]
      format_empty := fun hc => (hformat hc).2.2 }

/-- The first CLOSE sets CLOSED when the stream has become complete (rule R203). -/
theorem Healthy.close {s : State} (h : Healthy s) {k : Sink}
    (hconstructed : s.status.constructed = true) (hhacc : s.hacc = none)
    (hwaiting : s.waiting = false) (hk : IsCompleteStream s.params s.flags k.accepted) :
    Invariant { s with sink := k, status := { s.status with closed := true } } where
  params_wf := h.params_wf
  registers :=
    { closed_constructed := fun _ => hconstructed
      closed_healthy := fun _ => h.no_fault
      healthy_cause := fun _ => h.cause_zero
      failed_cause := by simp [h.no_fault]
      lastcc_defined := h.lastcc_defined
      rejected_recorded := h.rejected_recorded
      flags_masked := h.flags_masked
      flags_unlatched := by simp [lifecycle_eq_unconstructed_iff]
      format_unlatched := by simp [h.cause_zero]
      hacc_transient := by simp [hhacc]
      waiting_admitted := by simp [hwaiting] }
  accumulators := { h.accumulators with }
  buffers := { h.buffers with }
  trace :=
    { unconstructed_empty := by simp [lifecycle_eq_unconstructed_iff]
      opened_stream := by simp [lifecycle_eq_opened_iff]
      closed_stream := fun _ => hk
      prefix_stream := ⟨s.flags, k.accepted, h.flags_masked, hk, List.prefix_rfl, by simp⟩
      waiting_stream := by simp [hwaiting]
      format_empty := by simp [h.cause_zero] }

/-- An admitted command keeps the invariant if its requests lead towards a complete stream and its two
own ends, all answers OK and waiting, do. -/
theorem Healthy.transact {s : State} (h : Healthy s) {reqs : List SinkRequest}
    {onOk onWait : State → State} {whole : List SinkRequest}
    (hhacc : s.hacc = none) (hwaiting : s.waiting = false)
    (hwhole : IsCompleteStream s.params s.flags whole)
    (hprefix : s.sink.accepted ++ reqs <+: whole)
    (hok : ∀ k, k.accepted = s.sink.accepted ++ reqs → Invariant (onOk { s with sink := k }))
    (hwait : ∀ k, s.sink.accepted <+: k.accepted → Healthy { s with sink := k } →
      Invariant (onWait { s with sink := k }).wait) :
    Invariant (s.transact reqs onOk onWait) := by
  have hcut : ∀ n < reqs.length,
      Healthy { s with sink := sinkAfter s.sink (reqs.take n) (n + 1) } :=
    fun n hn => h.withSink (isUnfinished_take h.flags_masked hwhole hprefix hn)
  rcases State.transact_cases s reqs onOk onWait with
    ⟨-, heq⟩ | ⟨n, hn, -, heq⟩ | ⟨n, hn, -, heq⟩ <;> rw [heq]
  · exact (hok _ rfl).completeOk
  · exact (hcut n hn).raiseFatal hhacc hwaiting (.inl rfl) (fun hc => absurd hc (by decide))
  · exact hwait _ (List.prefix_append ..) (hcut n hn)

end Sys2Proof.Safety
end

section
/-! PROOFS. Every command, every event of the port and every step keep the invariant. -/

namespace Sys2Proof.Safety

open Sys2Proof.Machine

/-! ### The commands -/

section
variable {s : State} (h : Invariant s) (hwaiting : s.waiting = false)
include h hwaiting

/-- Before INIT nothing is latched and nothing is accepted (rules R154, R251). -/
theorem Invariant.blank (hfault : s.status.fault = false)
    (hconstructed : s.status.constructed = false) : s.flags = 0 ∧ s.sink.accepted = [] := by
  have hl := lifecycle_eq_unconstructed_iff.2
    ⟨hfault, h.closed_eq_false hconstructed, hconstructed⟩
  exact ⟨h.registers.flags_unlatched hl hwaiting, h.trace.unconstructed_empty hl hwaiting⟩

theorem Invariant.raiseFormatFault (hfault : s.status.fault = false)
    (hconstructed : s.status.constructed = false) : Invariant s.raiseFormatFault :=
  (h.healthy hfault (h.closed_eq_false hconstructed)).raiseFatal (h.hacc_eq_none hwaiting)
    hwaiting (.inr rfl) fun _ => ⟨hconstructed, h.blank hwaiting hfault hconstructed⟩

theorem Invariant.emitHeader (hadmitted : InitAdmitted s) :
    Invariant s.latchFlags.emitHeader := by
  obtain ⟨hfault, hconstructed, halgo, hlevel⟩ := hadmitted
  have hbusy := (h.healthy hfault (h.closed_eq_false hconstructed)).latchFlags
  have hempty : s.latchFlags.sink.accepted = [] := (h.blank hwaiting hfault hconstructed).2
  have hopen : IsOpenStream s.latchFlags.params s.latchFlags.flags s.latchFlags.initRequests :=
    initRequests_isOpenStream halgo hlevel
  refine hbusy.transact (h.hacc_eq_none hwaiting) hwaiting hopen.append_close
    (hempty ▸ List.prefix_append ..) (fun k hk => ?_) (fun k _ hcut => ?_)
  · rw [hempty, List.nil_append] at hk
    rw [← hk] at hopen
    exact (hbusy.withSink (hopen.isUnfinished hbusy.flags_masked)).construct.invariant
      (fun hne => absurd (h.hacc_eq_none hwaiting) hne) (by simp)
      (fun _ => ⟨_, hopen, List.prefix_rfl, fun _ => rfl⟩)
  · exact (hcut.withHacc (headerAcc_inRange _)).wait.invariant (fun _ => ⟨rfl, hconstructed⟩)
      (by simp) (by simp [hconstructed])

theorem Invariant.emitBlock (hadmitted : WblkAdmitted s) : Invariant s.emitBlock := by
  obtain ⟨hfault, hconstructed, hclosed, hoperands⟩ := hadmitted
  have hbusy := (h.healthy hfault hclosed).usePaths s.comp
  have hstream : IsOpenStream s.params s.flags s.sink.accepted :=
    h.trace.opened_stream (lifecycle_eq_opened_iff.2 ⟨hfault, hclosed, hconstructed⟩) hwaiting
  have hopen := hstream.append_record (record_isBlockRecord hoperands)
  refine hbusy.transact (h.hacc_eq_none hwaiting) hwaiting hopen.append_close
    (List.prefix_append ..) (fun k hk => ?_) (fun k hk hcut => ?_)
  · have hopenk : IsOpenStream s.params s.flags k.accepted := hk ▸ hopen
    exact (hbusy.withSink (hopenk.isUnfinished hbusy.flags_masked)).invariant
      (fun hne => absurd (h.hacc_eq_none hwaiting) hne) (by simp [hconstructed])
      (fun _ => ⟨_, hopenk, List.prefix_rfl, fun _ => rfl⟩)
  · exact hcut.wait.invariant (fun hne => absurd (h.hacc_eq_none hwaiting) hne) (by simp)
      (fun _ => ⟨_, hstream, hk, by simp⟩)

theorem Invariant.emitClose (hadmitted : CloseAdmitted s) : Invariant s.emitClose := by
  obtain ⟨hfault, hconstructed, hclosed⟩ := hadmitted
  have hbusy := h.healthy hfault hclosed
  have hhacc := h.hacc_eq_none hwaiting
  have hstream : IsOpenStream s.params s.flags s.sink.accepted :=
    h.trace.opened_stream (lifecycle_eq_opened_iff.2 ⟨hfault, hclosed, hconstructed⟩) hwaiting
  refine hbusy.transact hhacc hwaiting hstream.append_close List.prefix_rfl
    (fun k hk => ?_) (fun k hk hcut => ?_)
  · exact hbusy.close hconstructed hhacc hwaiting (hk ▸ hstream.append_close)
  · exact hcut.wait.invariant (fun hne => absurd hhacc hne) (by simp)
      (fun _ => ⟨_, hstream, hk, by simp⟩)

theorem Invariant.exec {i : Instr} {t : State} (hexec : exec i s = .next t) : Invariant t := by
  rcases exec_cases hexec with ⟨-, rfl⟩ | ⟨-, rfl, -⟩ | ⟨-, -, -, -, -, rfl⟩ |
    ⟨-, hfault, hconstructed, -, rfl⟩ | ⟨-, -, -, -, rfl⟩ | ⟨-, hadmitted, rfl⟩ |
    ⟨-, hadmitted, rfl⟩ | ⟨-, hadmitted, rfl⟩
  · exact h.reject _
  · exact h.reject _
  · exact h.reject _
  · exact h.raiseFormatFault hwaiting hfault hconstructed
  · exact h.completeOk
  · exact h.emitHeader hwaiting hadmitted
  · exact h.emitBlock hwaiting hadmitted
  · exact h.emitClose hwaiting hadmitted

theorem Invariant.issue {w : Word} {t : State} (hissue : issue w s = .next t) : Invariant t := by
  rcases issue_cases hissue with ⟨i, -, hexec⟩ | ⟨_, -, rfl⟩
  · exact h.exec hwaiting hexec
  · exact h.reject _

end

/-! ### Just after reset -/

theorem eq_zero_of_zeroExtend_shiftLeft {w n : Nat} {v : BitVec w} (hfits : w + n ≤ 32)
    (h : v.zeroExtend 32 <<< n = 0) : v = 0 := by
  ext i hi
  have hbit := congrArg (BitVec.getLsbD · (i + n)) h
  simpa [hi, show i + n < 32 by omega] using hbit

theorem eq_false_of_zeroExtend_ofBool {b : Bool} {n : Nat} (hfits : 1 + n ≤ 32)
    (h : (BitVec.ofBool b).zeroExtend 32 <<< n = 0) : b = false := by
  have := eq_zero_of_zeroExtend_shiftLeft hfits h
  cases b
  · rfl
  · cases this

/-- A STATUS that reads as 0 has R44's value in every field. -/
theorem status_eq_of_word_eq_zero {st : Status} (h : st.word = 0) : st = State.reset.status := by
  rw [Status.word, ← BitVec.shiftLeft_zero ((BitVec.ofBool st.constructed).zeroExtend 32)] at h
  simp only [BitVec.ofNat_eq_ofNat, BitVec.or_eq_zero_iff] at h
  obtain ⟨⟨⟨⟨⟨hlastcc, hcause⟩, hrej⟩, hfault⟩, hclosed⟩, hconstructed⟩ := h
  rw [State.reset, Status.mk.injEq]
  exact ⟨eq_false_of_zeroExtend_ofBool (by decide) hconstructed,
    eq_false_of_zeroExtend_ofBool (by decide) hclosed,
    eq_false_of_zeroExtend_ofBool (by decide) hfault,
    eq_false_of_zeroExtend_ofBool (by decide) hrej,
    eq_zero_of_zeroExtend_shiftLeft (by decide) hcause,
    eq_zero_of_zeroExtend_shiftLeft (by decide) hlastcc⟩

theorem JustReset.invariant {s : State} (h : JustReset s) : Invariant s := by
  obtain ⟨-, hword, hflags, hacc, hhacc, hwaiting, hempty, hparams, hbuffers⟩ := h
  have hstatus := status_eq_of_word_eq_zero hword
  have hhealthy : Healthy s :=
    { params_wf := hparams
      accumulators := by constructor <;> simp [hacc, hflags, hhacc, flagSet]
      buffers := hbuffers
      no_fault := by simp [hstatus, State.reset]
      unclosed := by simp [hstatus, State.reset]
      cause_zero := by simp [hstatus, State.reset]
      lastcc_defined := by simp [hstatus, State.reset]
      rejected_recorded := by simp [hstatus, State.reset]
      flags_masked := by simp [hflags]
      unfinished := by rw [hempty]; exact isUnfinished_nil _ }
  exact hhealthy.invariant (by simp [hhacc]) (fun _ _ => ⟨hflags, hempty⟩)
    (by simp [hstatus, State.reset])

/-- Reset leaves parameters and buffers alone, so it gives a state just after reset (rule R282). -/
theorem Invariant.justReset_applyReset {s : State} (h : Invariant s) : JustReset s.applyReset :=
  ⟨rfl, show State.reset.status.word = 0 by decide, rfl, rfl, rfl, rfl, rfl, h.params_wf,
    { h.buffers with }⟩

theorem Invariant.applyReset {s : State} (h : Invariant s) : Invariant s.applyReset :=
  h.justReset_applyReset.invariant

/-! ### The events of the port, and one step -/

/-- The invariant is about no operand register and about nothing of the host's. -/
theorem Invariant.withPort {s : State} (h : Invariant s) (x : Vector Word 8) (host : HostPort) :
    Invariant { s with x := x, host := host } where
  params_wf := h.params_wf
  registers := { h.registers with }
  accumulators := { h.accumulators with }
  buffers := { h.buffers with }
  trace := { h.trace with }

theorem Invariant.withPending {s : State} (h : Invariant s) (es : List PortEvent) :
    Invariant (s.withPending es) := h.withPort ..

theorem BuffersOk.placeByte {s : State} (h : BuffersOk s) {sp : Space} {a : Nat} (b : Byte)
    (ha : a < spaceSize s.params sp) : BuffersOk (s.placeByte sp a b) := by
  cases sp with
  | raw =>
    exact { h with
      raw_wf := Memory.write_wf a b h.raw_wf
      raw_within := Memory.write_within b h.raw_within ha }
  | cand =>
    exact { h with
      cand_wf := Memory.write_wf a b h.cand_wf
      cand_within := Memory.write_within b h.cand_within ha }

theorem Invariant.placeByte {s : State} (h : Invariant s) {sp : Space} {a : Nat} (b : Byte)
    (ha : a < spaceSize s.params sp) : Invariant (s.placeByte sp a b) := by
  have hbuffers := h.buffers.placeByte b ha
  cases sp <;> exact
    { params_wf := h.params_wf
      registers := { h.registers with }
      accumulators := { h.accumulators with }
      buffers := hbuffers
      trace := { h.trace with } }

theorem Invariant.runEvent {s t : State} {e : PortEvent} (h : Invariant s)
    (hwaiting : s.waiting = false) (hrun : runEvent e s = .next t) : Invariant t := by
  rcases runEvent_cases hrun with ⟨i, v, hi, -, rfl⟩ | ⟨v, -, hissue⟩ | ⟨_, _, -, -, rfl⟩ |
    ⟨i, -, rfl⟩ | ⟨-, rfl⟩ | ⟨sp, a, b, -, ha, rfl⟩
  · exact h.withPort ..
  · exact h.issue hwaiting hissue
  · exact h
  · exact h.withPort ..
  · exact h.applyReset
  · exact h.placeByte b ha

/-- Settles O49, by the cases of a step and of the command it runs. -/
theorem stepKeepsInvariant : Obligations.StepKeepsInvariant := by
  intro s t h hstep
  rcases step_cases hstep with ⟨-, rfl⟩ | ⟨e, es, hwaiting, -, hrun⟩ | ⟨es, -, -, rfl⟩ |
    ⟨_, _, -, -, -, rfl⟩
  · exact h
  · exact (h.withPending es).runEvent hwaiting hrun
  · exact (h.withPending es).applyReset
  · exact h

end Sys2Proof.Safety
end

section
/-! PROOFS. The state after reset, and every run from it. -/

namespace Sys2Proof.Safety

open Sys2Proof.Machine

/-- What holds just after reset and is kept by every step holds in every reachable state. -/
theorem Reaches.invariant {s t : State} (h : Reaches s t) (hs : JustReset s) : Invariant t := by
  induction h with
  | start => exact hs.invariant
  | step _ hstep ih => exact stepKeepsInvariant _ _ ih hstep

/-- Settles O50: the invariant holds in every reachable state, and a proper beginning of a complete
stream is no complete stream itself. -/
theorem closedMeansCompleteStream : Obligations.ClosedMeansCompleteStream := by
  intro s t hs hreach
  have h := hreach.invariant hs
  refine ⟨fun hclosed => ?_, fun hclosed => (h.isUnfinished hclosed).not_isCompleteStream⟩
  have hfault := h.registers.closed_healthy hclosed
  exact ⟨hfault, h.trace.closed_stream (lifecycle_eq_closed_iff.2 ⟨hfault, hclosed⟩)⟩

/-! ### The opaque parameters (rule R7) -/

theorem oneBit_twoPow (k : Fin 32) : oneBit (BitVec.twoPow 32 k.val) = true :=
  List.any_eq_true.2 ⟨k, List.mem_range.2 k.isLt, by simp⟩

theorem twoPow_injective {j k : Fin 32} (h : BitVec.twoPow 32 j.val = BitVec.twoPow 32 k.val) :
    j = k := by
  have hnat := congrArg BitVec.toNat h
  rw [BitVec.toNat_twoPow_of_lt j.isLt, BitVec.toNat_twoPow_of_lt k.isLt] at hnat
  exact Fin.ext (Nat.pow_right_injective (le_refl 2) hnat)

theorem config_params_wf : Config.params.wf := by
  refine ⟨oneBit_twoPow _, oneBit_twoPow _, oneBit_twoPow _, oneBit_twoPow _, ?_,
    Nat.le_of_lt_succ Config.rawSize.isLt, Nat.le_of_lt_succ Config.candSize.isLt⟩
  have hinj : Function.Injective fun k => BitVec.twoPow 32 (Config.flagPlace k).val :=
    fun _ _ h => Config.flagPlace.injective (twoPow_injective h)
  exact (List.nodup_map_iff hinj (l := [0, 1, 2, 3])).2 (by decide)

theorem justReset_reset : JustReset State.reset :=
  ⟨rfl, by decide, rfl, rfl, rfl, rfl, rfl, config_params_wf,
    { raw_wf := ⟨.nil, List.forall_mem_nil _⟩
      cand_wf := ⟨.nil, List.forall_mem_nil _⟩
      raw_within := List.forall_mem_nil _
      cand_within := List.forall_mem_nil _ }⟩

/-- Settles O48: the state after reset is one that is just reset. -/
theorem resetSatisfiesInvariant : Obligations.ResetSatisfiesInvariant :=
  justReset_reset.invariant

end Sys2Proof.Safety
end

section
/-! PROOFS. The reference checksum functions and their worked examples. -/

namespace Sys2Proof.Machine

/-- The worked examples of rules R131 and R142. -/
theorem adler32_examples : adler32 [] = 0x00000001 ∧
    adler32 [0x41, 0x41, 0x41, 0x41] = 0x028E0105 := by decide +kernel

/-- The worked examples of rules R132 and R142. -/
theorem crc32_examples : crc32 [] = 0x00000000 ∧
    crc32 [0x41, 0x41, 0x41, 0x41] = 0x9B0D08F1 ∧
    crc32 [0x31, 0x32, 0x33, 0x34, 0x35, 0x36, 0x37, 0x38, 0x39] = 0xCBF43926 := by
  decide +kernel

/-- Settles O19: a parameter that names the reference is the function of its rule, and the rules'
examples are evaluated. -/
theorem checksumWorkedExamples : Obligations.ChecksumWorkedExamples := by
  intro p hadler hcrc
  obtain ⟨adler_empty, adler_AAAA⟩ := adler32_examples
  obtain ⟨crc_empty, crc_AAAA, crc_digits⟩ := crc32_examples
  refine ⟨adler32Of_reference hadler, crc32Of_reference hcrc, ?_⟩
  simp only [adler32Of_reference hadler, crc32Of_reference hcrc]
  exact ⟨adler_empty, crc_empty, adler_AAAA, crc_AAAA, crc_digits⟩

end Sys2Proof.Machine
end

section
/-! PROOFS. What a step does with the next event of the port, event by event; the registers the host
reads and writes, and reset. -/

namespace Sys2Proof.Machine

/-! ### The next event -/

theorem step_of_pending {s : State} {e : PortEvent} {es : List PortEvent}
    (hwaiting : s.waiting = false) (hpending : s.host.pending = e :: es) :
    step s = runEvent e (s.withPending es) := by
  simp only [step, takeEvent, hwaiting, hpending]

/-- Reset is taken whether a command waits or not (rules R280, R301). -/
theorem step_of_reset_pending {s : State} {es : List PortEvent}
    (hpending : s.host.pending = .reset :: es) :
    step s = .next (s.withPending es).applyReset := by
  cases hwaiting : s.waiting with
  | false => exact step_of_pending hwaiting hpending
  | true => simp only [step, takeEvent, hwaiting, hpending]

theorem step_of_hwrite_operand_pending {s : State} {i : Fin 16} {v : Word} {es : List PortEvent}
    (hi : i.val < 8) (hwaiting : s.waiting = false) (hpending : s.host.pending = .hwrite i v :: es) :
    step s = .next { s.withPending es with x := s.x.set i.val v } :=
  (step_of_pending hwaiting hpending).trans (dif_pos hi)

theorem step_of_hread_pending {s : State} {i : Fin 16} {es : List PortEvent}
    (hwaiting : s.waiting = false) (hpending : s.host.pending = .hread i :: es) :
    step s = .next { s with
      host := { pending := es, returned := s.host.returned ++ [s.portRead i] } } :=
  step_of_pending hwaiting hpending

theorem State.portRead_operand (s : State) {i : Fin 16} (hi : i.val < 8) :
    s.portRead i = s.x[i.val] := dif_pos hi

/-- Settles O9: the write is one step and the read is the next. -/
theorem operandRegisterReadsBack : Obligations.OperandRegisterReadsBack := by
  intro s i v es hi hwaiting hpending
  refine ⟨_, _, step_of_hwrite_operand_pending hi hwaiting hpending,
    step_of_hread_pending hwaiting rfl, ?_, Vector.getElem_set_self hi,
    fun j hj hne => Vector.getElem_set_ne hi hj hne.symm⟩
  simp [State.portRead_operand _ hi]

/-! ### Reset -/

/-- Settles O11: every value of R44's table. -/
theorem resetStateValues : Obligations.ResetStateValues := by
  refine ⟨fun i hi => ?_, rfl, rfl, rfl, rfl, rfl, rfl, rfl, rfl, rfl, rfl, rfl, rfl, rfl⟩
  exact Vector.getElem_replicate hi

theorem State.applyReset_space (s : State) (sp : Space) : s.applyReset.space sp = s.space sp := by
  cases sp <;> rfl

theorem State.withPending_space (s : State) (es : List PortEvent) (sp : Space) :
    (s.withPending es).space sp = s.space sp := by
  cases sp <;> rfl

/-- Settles O12: the step takes the reset, and `applyReset` is R44's table. -/
theorem resetEvent : Obligations.ResetEvent := by
  intro s es hpending
  refine ⟨_, step_of_reset_pending hpending, rfl, rfl, rfl, rfl, rfl, rfl, rfl, fun sp a => ?_,
    rfl, rfl⟩
  rw [State.applyReset_space, State.withPending_space]

/-! ### STATUS as the host reads it (rule R34) -/

/-- A bit of a field that stands at bit `n` of a word. -/
theorem getLsbD_zeroExtend_shiftLeft {w : Nat} (v : BitVec w) (n : Nat) {i : Nat} (hi : i < 32) :
    (v.zeroExtend 32 <<< n).getLsbD i = (decide (n ≤ i) && v.getLsbD (i - n)) := by
  have hle : decide (n ≤ i) = !decide (i < n) := by simp only [← decide_not, Nat.not_lt]
  simp [hi, hle]

/-- A bit of STATUS is the bit of the field that stands there. -/
theorem Status.getLsbD_word (st : Status) {i : Nat} (hi : i < 32) : st.word.getLsbD i =
    (decide (8 ≤ i) && st.lastcc.getLsbD (i - 8) || decide (4 ≤ i) && st.cause.getLsbD (i - 4) ||
      decide (3 ≤ i) && (BitVec.ofBool st.rej).getLsbD (i - 3) ||
      decide (2 ≤ i) && (BitVec.ofBool st.fault).getLsbD (i - 2) ||
      decide (1 ≤ i) && (BitVec.ofBool st.closed).getLsbD (i - 1) ||
      decide (0 ≤ i) && (BitVec.ofBool st.constructed).getLsbD (i - 0)) := by
  rw [Status.word, ← BitVec.shiftLeft_zero ((BitVec.ofBool st.constructed).zeroExtend 32)]
  simp only [BitVec.getLsbD_or, getLsbD_zeroExtend_shiftLeft _ _ hi]

/-- Settles O8: each bit of the word is found in the field that stands there, and no other field
reaches it. -/
theorem statusWordLayout : Obligations.StatusWordLayout := by
  intro st
  refine ⟨?_, ?_, ?_, ?_, ?cause, ?lastcc, ?reserved⟩
  case cause | lastcc | reserved =>
    refine BitVec.eq_of_getLsbD_eq fun i hi => ?_
    rw [BitVec.getLsbD_extractLsb', st.getLsbD_word (by omega)]
    simp (disch := omega) [BitVec.getLsbD_of_ge, decide_eq_false, hi]
  all_goals rw [st.getLsbD_word (by decide)]; simp

end Sys2Proof.Machine
end

section
/-! PROOFS. INIT where it completes (rules R151, R157). -/

namespace Sys2Proof.Machine

open Sys2Proof.Safety

theorem State.emitHeader_ok {s : State} (h : AnswersOk s.sink 38) : s.emitHeader = { s with
    status := { s.status with constructed := true, lastcc := CompletionCode.ok.code }
    sink := sinkAfter s.sink s.initRequests 38 } := by
  rw [State.emitHeader, State.transact_ok (by rwa [State.initRequests_length]),
    State.initRequests_length]
  rfl

theorem State.latchFlags_present (s : State) :
    s.latchFlags.acc.adlerD.isSome = flagSet s.latchFlags.flags s.params.fAdler32D ∧
    s.latchFlags.acc.crcD.isSome = flagSet s.latchFlags.flags s.params.fCrc32D ∧
    s.latchFlags.acc.adlerC.isSome = flagSet s.latchFlags.flags s.params.fAdler32C ∧
    s.latchFlags.acc.crcC.isSome = flagSet s.latchFlags.flags s.params.fCrc32C :=
  ⟨Bool.eq_iff_iff.2 Option.isSome_ite, Bool.eq_iff_iff.2 Option.isSome_ite,
    Bool.eq_iff_iff.2 Option.isSome_ite, Bool.eq_iff_iff.2 Option.isSome_ite⟩

/-- Settles O23: the admitted INIT latches the flags and then sends the 38 bytes. -/
theorem initCompletes : Obligations.InitCompletes := by
  intro s hfault hconstructed halgo hlevel hanswers f H bytes
  have hadmitted : InitAdmitted s := ⟨hfault, hconstructed, halgo, hlevel⟩
  have hexec : exec .init s = .next s.latchFlags.emitHeader :=
    congrArg Host.Outcome.next (afterInit_admitted hadmitted)
  have hrequests : s.latchFlags.initRequests = bytes.map .data := by
    have hrecord : headerRecord s.params s.algo s.level f s.x[6] s.x[7] =
        H ++ be32 (adler32Of s.params H) := by
      rw [show s.algo = _ from halgo, show s.level = _ from hlevel]
      rfl
    rw [show bytes = s.params.magic.toList ++ (H ++ be32 (adler32Of s.params H)) from
      List.append_assoc .., ← hrecord]
    rfl
  refine ⟨s.latchFlags.acc, s.latchFlags.freeTick, ?_, s.latchFlags_present⟩
  rw [hexec, State.emitHeader_ok (s := s.latchFlags) hanswers, hrequests]
  rfl

end Sys2Proof.Machine
end

section
/-! PROOFS. What a command leaves as it was: a relation between the states before and after that every
operation a command is built of keeps, and what it says of every command and every step. -/

namespace Sys2Proof.Machine

open Sys2Proof.Safety

/-- What no command and no event of the port but reset undoes: the STATUS bits are never cleared, CAUSE
changes only with FAULT, and FLAGS stays once INIT has completed (rules R35, R247, R252). -/
structure StickyKept (s t : State) : Prop where
  constructed : s.status.constructed = true → t.status.constructed = true
  closed : s.status.closed = true → t.status.closed = true
  fault : s.status.fault = true → t.status.fault = true
  rej : s.status.rej = true → t.status.rej = true
  cause : t.status.fault = s.status.fault → t.status.cause = s.status.cause
  flags : s.status.constructed = true → t.flags = s.flags

/-- What every command keeps: besides the sticky bits, all that is not the block's own and the operand
registers stay, and the accepted trace only grows (rules R60, R67, R226). -/
structure CommandFrame (s t : State) : Prop extends StickyKept s t where
  x : t.x = s.x
  raw : t.raw = s.raw
  cand : t.cand = s.cand
  params : t.params = s.params
  host : t.host = s.host
  earlier : t.sink.earlier = s.sink.earlier
  accepted : s.sink.accepted <+: t.sink.accepted

/-! ### The two relations are preorders -/

theorem StickyKept.of_eq {s t : State} (hstatus : t.status = s.status) (hflags : t.flags = s.flags) :
    StickyKept s t := by
  constructor <;> simp [hstatus, hflags]

theorem StickyKept.trans {s t u : State} (h : StickyKept s t) (h' : StickyKept t u) :
    StickyKept s u where
  constructed hs := h'.constructed (h.constructed hs)
  closed hs := h'.closed (h.closed hs)
  fault hs := h'.fault (h.fault hs)
  rej hs := h'.rej (h.rej hs)
  cause hus := by
    have hts : t.status.fault = s.status.fault := by
      cases hs : s.status.fault with
      | true => exact h.fault hs
      | false => exact Bool.eq_false_iff.2 fun ht => by simp [h'.fault ht, hs] at hus
    exact (h'.cause (hus.trans hts.symm)).trans (h.cause hts)
  flags hs := (h'.flags (h.constructed hs)).trans (h.flags hs)

theorem CommandFrame.refl (s : State) : CommandFrame s s where
  toStickyKept := .of_eq rfl rfl
  x := rfl
  raw := rfl
  cand := rfl
  params := rfl
  host := rfl
  earlier := rfl
  accepted := List.prefix_rfl

theorem CommandFrame.trans {s t u : State} (h : CommandFrame s t) (h' : CommandFrame t u) :
    CommandFrame s u where
  toStickyKept := h.toStickyKept.trans h'.toStickyKept
  x := h'.x.trans h.x
  raw := h'.raw.trans h.raw
  cand := h'.cand.trans h.cand
  params := h'.params.trans h.params
  host := h'.host.trans h.host
  earlier := h'.earlier.trans h.earlier
  accepted := h.accepted.trans h'.accepted

theorem CommandFrame.space {s t : State} (h : CommandFrame s t) (sp : Space) :
    t.space sp = s.space sp := by
  cases sp with
  | raw => exact h.raw
  | cand => exact h.cand

/-! ### The operations a command is built of -/

section
variable {s : State}

theorem CommandFrame.reject (cc : CompletionCode) : CommandFrame s (s.reject cc) :=
  { CommandFrame.refl s with rej := fun _ => rfl }

theorem CommandFrame.completeOk : CommandFrame s s.completeOk := { CommandFrame.refl s with }

theorem CommandFrame.wait : CommandFrame s s.wait := { CommandFrame.refl s with }

theorem CommandFrame.raiseFatal (cc : CompletionCode) (hfault : s.status.fault = false) :
    CommandFrame s (s.raiseFatal cc) :=
  { CommandFrame.refl s with
    fault := fun _ => rfl
    cause := fun h => by simp [hfault] at h }

theorem CommandFrame.latchFlags (hconstructed : s.status.constructed = false) :
    CommandFrame s s.latchFlags :=
  { CommandFrame.refl s with flags := fun h => by simp [hconstructed] at h }

theorem CommandFrame.usePaths (comp : Bool) : CommandFrame s (s.usePaths comp) :=
  { CommandFrame.refl s with }

theorem CommandFrame.withSink (reqs : List SinkRequest) (n : Nat) :
    CommandFrame s { s with sink := sinkAfter s.sink reqs n } :=
  { CommandFrame.refl s with accepted := List.prefix_append .. }

theorem CommandFrame.transact {reqs : List SinkRequest} {onOk onWait : State → State}
    (hfault : s.status.fault = false) (hok : ∀ u, CommandFrame u (onOk u))
    (hwait : ∀ u, CommandFrame u (onWait u)) : CommandFrame s (s.transact reqs onOk onWait) := by
  rcases State.transact_cases s reqs onOk onWait with
    ⟨-, heq⟩ | ⟨n, -, -, heq⟩ | ⟨n, -, -, heq⟩ <;> rw [heq]
  · exact ((CommandFrame.withSink ..).trans (hok _)).trans .completeOk
  · exact (CommandFrame.withSink ..).trans (.raiseFatal _ hfault)
  · exact ((CommandFrame.withSink ..).trans (hwait _)).trans .wait

end

/-! ### The commands, the port and a step -/

theorem exec_commandFrame {i : Instr} {s t : State} (h : exec i s = .next t) :
    CommandFrame s t := by
  rcases exec_cases h with ⟨-, rfl⟩ | ⟨-, rfl, -⟩ | ⟨-, -, -, -, -, rfl⟩ |
    ⟨-, hfault, -, -, rfl⟩ | ⟨-, -, -, -, rfl⟩ | ⟨-, ⟨hfault, hconstructed, -⟩, rfl⟩ |
    ⟨-, ⟨hfault, -⟩, rfl⟩ | ⟨-, ⟨hfault, -⟩, rfl⟩
  · exact .reject _
  · exact .reject _
  · exact .reject _
  · exact .raiseFatal _ hfault
  · exact .completeOk
  · exact (CommandFrame.latchFlags hconstructed).trans (.transact hfault
      (fun u => { CommandFrame.refl u with constructed := fun _ => rfl })
      (fun u => { CommandFrame.refl u with }))
  · exact (CommandFrame.usePaths _).trans (.transact hfault .refl .refl)
  · exact .transact hfault (fun u => { CommandFrame.refl u with closed := fun _ => rfl }) .refl

theorem runEvent_stickyKept {e : PortEvent} {s t : State} (h : runEvent e s = .next t)
    (he : e ≠ .reset) : StickyKept s t := by
  rcases runEvent_cases h with ⟨i, v, hi, -, rfl⟩ | ⟨v, -, hissue⟩ | ⟨_, _, -, -, rfl⟩ |
    ⟨i, -, rfl⟩ | ⟨hreset, -⟩ | ⟨sp, a, b, -, -, rfl⟩
  · exact .of_eq rfl rfl
  · rcases issue_cases hissue with ⟨i, -, hexec⟩ | ⟨_, -, rfl⟩
    · exact (exec_commandFrame hexec).toStickyKept
    · exact (CommandFrame.reject _).toStickyKept
  · exact .of_eq rfl rfl
  · exact .of_eq rfl rfl
  · exact absurd hreset he
  · cases sp <;> exact .of_eq rfl rfl

theorem step_stickyKept {s t : State} (h : step s = .next t)
    (hreset : ∀ es, s.host.pending ≠ .reset :: es) : StickyKept s t := by
  rcases step_cases h with ⟨-, rfl⟩ | ⟨e, es, -, hpending, hrun⟩ | ⟨es, -, hpending, -⟩ |
    ⟨_, _, -, -, -, rfl⟩
  · exact .of_eq rfl rfl
  · have he : e ≠ .reset := fun he => hreset es (he ▸ hpending)
    have hevent := runEvent_stickyKept hrun he
    exact { hevent with }
  · exact absurd hpending (hreset es)
  · exact .of_eq rfl rfl

/-- Settles O44: a step that is no reset keeps what is sticky, and CAUSE stays because FAULT does. -/
theorem stickyUntilReset : Obligations.StickyUntilReset := by
  intro s t hstep hreset
  have h := step_stickyKept hstep hreset
  exact ⟨fun hfault => ⟨h.fault hfault, h.cause ((h.fault hfault).trans hfault.symm)⟩, h.rej,
    fun hconstructed => ⟨h.constructed hconstructed, h.flags hconstructed⟩⟩

end Sys2Proof.Machine
end

section
/-! PROOFS. The frame of each command: what WBLK and CLOSE leave of what INIT has set up, and the
statement about all three. -/

namespace Sys2Proof.Machine

open Sys2Proof.Safety

/-- What INIT sets up and WBLK and CLOSE keep: FLAGS, which accumulators are present, HACC and
CONSTRUCTED (rules R35, R40, R41). -/
structure SetupKept (s t : State) : Prop where
  flags : t.flags = s.flags
  adlerD : t.acc.adlerD.isSome = s.acc.adlerD.isSome
  crcD : t.acc.crcD.isSome = s.acc.crcD.isSome
  adlerC : t.acc.adlerC.isSome = s.acc.adlerC.isSome
  crcC : t.acc.crcC.isSome = s.acc.crcC.isSome
  hacc : t.hacc = s.hacc
  constructed : t.status.constructed = s.status.constructed

theorem SetupKept.refl (s : State) : SetupKept s s where
  flags := rfl
  adlerD := rfl
  crcD := rfl
  adlerC := rfl
  crcC := rfl
  hacc := rfl
  constructed := rfl

/-- An accumulator that a path uses stays present, and an absent one absent (rule R41). -/
theorem SetupKept.usePaths (s : State) (comp : Bool) : SetupKept s (s.usePaths comp) :=
  { SetupKept.refl s with
    adlerD := usedAdler_isSome ..
    crcD := usedCrc_isSome ..
    adlerC := by cases comp <;> simp [State.usePaths]
    crcC := by cases comp <;> simp [State.usePaths] }

/-! ### Command by command -/

theorem afterWblk_frame (s : State) :
    SetupKept s s.afterWblk ∧ s.afterWblk.status.closed = s.status.closed := by
  rcases afterWblk_cases s with ⟨-, heq⟩ | ⟨-, -, heq⟩ | ⟨-, -, -, -, heq⟩ | ⟨-, heq⟩ <;> rw [heq]
  · exact ⟨{ SetupKept.refl s with }, rfl⟩
  · exact ⟨{ SetupKept.refl s with }, rfl⟩
  · exact ⟨{ SetupKept.refl s with }, rfl⟩
  · rcases s.emitBlock_cases with ⟨-, heq⟩ | ⟨_, -, -, heq⟩ | ⟨_, -, -, heq⟩ <;> rw [heq] <;>
      exact ⟨{ SetupKept.usePaths s s.comp with }, rfl⟩

theorem afterClose_frame (s : State) : SetupKept s s.afterClose ∧
    s.afterClose.acc = s.acc ∧ s.afterClose.freeTick = s.freeTick := by
  rcases afterClose_cases s with ⟨-, heq⟩ | ⟨-, -, heq⟩ | ⟨-, -, -, heq⟩ | ⟨-, heq⟩ <;> rw [heq]
  · exact ⟨{ SetupKept.refl s with }, rfl, rfl⟩
  · exact ⟨{ SetupKept.refl s with }, rfl, rfl⟩
  · exact ⟨{ SetupKept.refl s with }, rfl, rfl⟩
  · rcases s.emitClose_cases with ⟨-, heq⟩ | ⟨_, -, -, heq⟩ | ⟨_, -, -, heq⟩ <;> rw [heq] <;>
      exact ⟨{ SetupKept.refl s with }, rfl, rfl⟩

/-- INIT sets HACC only where it is left waiting (rule R40). -/
theorem afterInit_frame (s : State) : s.afterInit.status.closed = s.status.closed ∧
    (s.afterInit.waiting = false → s.afterInit.hacc = s.hacc) := by
  rcases afterInit_cases s with ⟨-, heq⟩ | ⟨-, -, heq⟩ | ⟨-, -, -, heq⟩ | ⟨-, heq⟩ <;> rw [heq]
  · exact ⟨rfl, fun _ => rfl⟩
  · exact ⟨rfl, fun _ => rfl⟩
  · exact ⟨rfl, fun _ => rfl⟩
  · rcases s.latchFlags.emitHeader_cases with ⟨-, heq⟩ | ⟨_, -, -, heq⟩ | ⟨_, -, -, heq⟩ <;> rw [heq]
    · exact ⟨rfl, fun _ => rfl⟩
    · exact ⟨rfl, fun _ => rfl⟩
    · exact ⟨rfl, fun hwaiting => Bool.noConfusion hwaiting⟩

/-! ### All commands -/

section
variable {i : Instr} {s t : State} (h : exec i s = .next t)
include h

theorem exec_setupKept (hi : i ≠ .init) : SetupKept s t := by
  cases i with
  | init => exact absurd rfl hi
  | wblk => cases h; exact (afterWblk_frame s).1
  | close => cases h; exact (afterClose_frame s).1

theorem exec_closed_eq (hi : i ≠ .close) : t.status.closed = s.status.closed := by
  cases i with
  | init => cases h; exact (afterInit_frame s).1
  | wblk => cases h; exact (afterWblk_frame s).2
  | close => exact absurd rfl hi

theorem exec_hacc_eq (hwaiting : t.waiting = false) : t.hacc = s.hacc := by
  by_cases hi : i = .init
  · subst hi
    cases h
    exact (afterInit_frame s).2 hwaiting
  · exact (exec_setupKept h hi).hacc

end

/-- Settles O37, from the frame of all commands and those of each. -/
theorem commandsFrame : Obligations.CommandsFrame := by
  intro i s t h
  have hframe := exec_commandFrame h
  refine ⟨hframe.x, fun sp a => by rw [hframe.space], hframe.params, hframe.host, hframe.earlier,
    hframe.accepted, fun hi => ?setup, fun hi => ?acc, exec_closed_eq h, exec_hacc_eq h,
    fun hs => ⟨hframe.constructed hs, hframe.flags hs⟩, hframe.closed, hframe.fault, hframe.rej,
    hframe.cause⟩
  case setup =>
    obtain ⟨hflags, hadlerD, hcrcD, hadlerC, hcrcC, hhacc, hconstructed⟩ := exec_setupKept h hi
    exact ⟨hflags, hadlerD, hcrcD, hadlerC, hcrcC, hhacc, hconstructed⟩
  case acc =>
    subst hi
    cases h
    exact (afterClose_frame s).2

end Sys2Proof.Machine
end

section
/-! PROOFS. The buffer spaces: what `MemRead` reads and what the host's `place` does (rules R61 to R63). -/

namespace Sys2Proof.Machine

open Sys2Proof.Safety

/-- Settles O13, by the laws of a range. -/
theorem memReadIsByteRange : Obligations.MemReadIsByteRange := fun m addr n =>
  ⟨m.readRange_length addr n, fun _ hi => m.readRange_getElem? hi⟩

theorem place_of_lt {s : State} {sp : Space} {a : Nat} (b : Byte) (h : a < spaceSize s.params sp) :
    place sp a b s = .next (s.placeByte sp a b) := if_pos h

theorem place_of_ge {s : State} {sp : Space} {a : Nat} (b : Byte) (h : spaceSize s.params sp ≤ a) :
    place sp a b s = .fault .placeOutside := if_neg (Nat.not_lt.2 h)

/-- Settles O15: the next event is the `place`, and it is outside. -/
theorem placingOutsideSpaceFaults : Obligations.PlacingOutsideSpaceFaults :=
  fun s _ _ b es hwaiting hpending houtside =>
    (step_of_pending hwaiting hpending).trans (place_of_ge (s := s.withPending es) b houtside)

theorem State.placeByte_space_same (s : State) (sp : Space) (a : Nat) (b : Byte) :
    (s.placeByte sp a b).space sp = (s.space sp).write a b := by
  cases sp <;> rfl

theorem State.placeByte_space_other (s : State) {sp sp' : Space} (h : sp' ≠ sp) (a : Nat) (b : Byte) :
    (s.placeByte sp a b).space sp' = s.space sp' := by
  match sp, sp' with
  | .raw, .cand | .cand, .raw => rfl
  | .raw, .raw | .cand, .cand => exact absurd rfl h

theorem State.space_wf {s : State} (h : BuffersOk s) (sp : Space) : (s.space sp).wf := by
  cases sp with
  | raw => exact h.raw_wf
  | cand => exact h.cand_wf

theorem State.placeByte_read_same {s : State} (h : BuffersOk s) (sp : Space) (a : Nat) (b : Byte) :
    ((s.placeByte sp a b).space sp).read a = b := by
  rw [State.placeByte_space_same, Memory.read_write_same a b (State.space_wf h sp)]

theorem State.placeByte_read_other {s : State} (h : BuffersOk s) {sp sp' : Space} {a a' : Nat}
    (b : Byte) (hne : (sp', a') ≠ (sp, a)) :
    ((s.placeByte sp a b).space sp').read a' = (s.space sp').read a' := by
  by_cases hsp : sp' = sp
  · subst hsp
    have ha : a' ≠ a := fun ha => hne (ha ▸ rfl)
    rw [State.placeByte_space_same, Memory.read_write_other b ha (State.space_wf h sp')]
  · rw [State.placeByte_space_other s hsp]

/-- Settles O14: the step is the `place`, a write in one of the two spaces. -/
theorem placedByteReadsBack : Obligations.PlacedByteReadsBack := by
  intro s sp a b es hwaiting hpending hbuffers ha
  have hbuffers' : BuffersOk (s.withPending es) := { hbuffers with }
  refine ⟨(s.withPending es).placeByte sp a b,
    (step_of_pending hwaiting hpending).trans (place_of_lt b ha),
    State.placeByte_read_same hbuffers' sp a b, fun sp' a' hne => ?_,
    hbuffers'.placeByte b ha, ?frame⟩
  · rw [State.placeByte_read_other hbuffers' b hne, State.withPending_space]
  case frame => cases sp <;> rfl

end Sys2Proof.Machine
end

section
/-! PROOFS. The sink: what `emit` does, and which steps send it anything (rules R65 to R69). -/

namespace Sys2Proof.Machine

open Sys2Proof.Safety

/-- Settles O20: `emit` sends one request per byte. -/
theorem emitGrowsTraceOrStopsAtFirstError : Obligations.EmitGrowsTraceOrStopsAtFirstError := by
  intro k bytes
  refine ⟨fun hok => ?_, fun n hn herr => ?_⟩
  · have hsend := Sink.send_ok (reqs := emitRequests bytes) (by rwa [emitRequests_length])
    rw [emitRequests_length] at hsend
    exact hsend
  · have hsend := Sink.send_stop (reqs := emitRequests bytes) (by rwa [emitRequests_length]) herr
      (by decide)
    rw [emitRequests, ← List.map_take] at hsend
    exact hsend

/-! ### Which steps reach the sink -/

/-- Apart from reset, only a command can reach the sink. -/
theorem runEvent_sink_cases {e : PortEvent} {s t : State} (h : runEvent e s = .next t)
    (he : e ≠ .reset) : t.sink = s.sink ∨ ∃ i, exec i s = .next t := by
  rcases runEvent_cases h with ⟨i, v, hi, -, rfl⟩ | ⟨v, -, hissue⟩ | ⟨_, _, -, -, rfl⟩ |
    ⟨i, -, rfl⟩ | ⟨hreset, -⟩ | ⟨sp, a, b, -, -, rfl⟩
  · exact .inl rfl
  · rcases issue_cases hissue with ⟨i, -, hexec⟩ | ⟨_, -, rfl⟩
    · exact .inr ⟨i, hexec⟩
    · exact .inl rfl
  · exact .inl rfl
  · exact .inl rfl
  · exact absurd hreset he
  · cases sp <;> exact .inl rfl

theorem step_sink_cases {s t : State} (h : step s = .next t)
    (hreset : ∀ es, s.host.pending ≠ .reset :: es) :
    t.sink = s.sink ∨ ∃ i es, exec i (s.withPending es) = .next t := by
  rcases step_cases h with ⟨-, rfl⟩ | ⟨e, es, -, hpending, hrun⟩ | ⟨es, -, hpending, -⟩ |
    ⟨_, _, -, -, -, rfl⟩
  · exact .inl rfl
  · have he : e ≠ .reset := fun he => hreset es (he ▸ hpending)
    rcases runEvent_sink_cases hrun he with hsink | ⟨i, hexec⟩
    · exact .inl hsink
    · exact .inr ⟨i, es, hexec⟩
  · exact absurd hpending (hreset es)
  · exact .inl rfl

/-! ### The accepted trace -/

theorem step_accepted_grows {s t : State} (h : step s = .next t)
    (hreset : ∀ es, s.host.pending ≠ .reset :: es) :
    t.sink.earlier = s.sink.earlier ∧ s.sink.accepted <+: t.sink.accepted := by
  rcases step_sink_cases h hreset with hsink | ⟨i, es, hexec⟩
  · exact hsink ▸ ⟨rfl, List.prefix_rfl⟩
  · have hframe := exec_commandFrame hexec
    exact ⟨hframe.earlier, hframe.accepted⟩

/-- Rule R282: a reset takes nothing back that the sink has accepted. -/
theorem step_reset_trace {s t : State} {es : List PortEvent} (h : step s = .next t)
    (hpending : s.host.pending = .reset :: es) :
    t.sink.earlier ++ t.sink.accepted = s.sink.earlier ++ s.sink.accepted := by
  rw [step_of_reset_pending hpending] at h
  cases h
  exact List.append_nil _

/-- Settles O45: a reset keeps the whole sequence, any other step extends its last part. -/
theorem acceptedTraceOnlyGrows : Obligations.AcceptedTraceOnlyGrows := by
  intro s t hstep
  refine ⟨?_, step_accepted_grows hstep⟩
  by_cases hreset : ∃ es, s.host.pending = .reset :: es
  · obtain ⟨es, hpending⟩ := hreset
    exact (step_reset_trace hstep hpending) ▸ List.prefix_rfl
  · obtain ⟨hearlier, haccepted⟩ := step_accepted_grows hstep (not_exists.1 hreset)
    rw [hearlier]
    exact (List.prefix_append_right_inj _).2 haccepted

/-! ### After CLOSED or FAULT is set -/

/-- In the states Closed and Failed no command gets as far as its requests (rules R202, R258). -/
theorem exec_sink_eq {i : Instr} {s t : State} (h : exec i s = .next t)
    (hends : (s.status.closed = true ∧ s.status.constructed = true) ∨ s.status.fault = true) :
    t.sink = s.sink := by
  rcases exec_cases h with ⟨-, rfl⟩ | ⟨-, rfl, -⟩ | ⟨-, -, -, -, -, rfl⟩ | ⟨-, -, -, -, rfl⟩ |
    ⟨-, -, -, -, rfl⟩ | ⟨-, ⟨hfault, hconstructed, -⟩, -⟩ | ⟨-, ⟨hfault, -, hclosed, -⟩, -⟩ |
    ⟨-, ⟨hfault, -, hclosed⟩, -⟩
  · rfl
  · rfl
  · rfl
  · rfl
  · rfl
  · simp [hfault, hconstructed] at hends
  · simp [hfault, hclosed] at hends
  · simp [hfault, hclosed] at hends

theorem step_sink_eq {s t : State} (h : step s = .next t)
    (hreset : ∀ es, s.host.pending ≠ .reset :: es)
    (hends : (s.status.closed = true ∧ s.status.constructed = true) ∨ s.status.fault = true) :
    t.sink = s.sink := by
  rcases step_sink_cases h hreset with hsink | ⟨i, es, hexec⟩
  · exact hsink
  · exact exec_sink_eq (s := s.withPending es) hexec hends

/-- Settles O43: the sink stays because no command is admitted, the bits because they are sticky. -/
theorem noRequestAfterCloseOrFailure : Obligations.NoRequestAfterCloseOrFailure := by
  intro s t hconstructed hstep hreset
  have hsticky := step_stickyKept hstep hreset
  exact ⟨fun hclosed =>
      ⟨step_sink_eq hstep hreset (.inl ⟨hclosed, hconstructed hclosed⟩), hsticky.closed hclosed⟩,
    fun hfault => ⟨step_sink_eq hstep hreset (.inr hfault), hsticky.fault hfault⟩⟩

end Sys2Proof.Machine
end

section
/-! PROOFS. WBLK where raw is chosen: neither the candidate bytes nor the candidate offset are used
(rules R63, R137, R173). -/

namespace Sys2Proof.Machine

/-- The state with another CAND content and another CAND_OFF. -/
def State.withCandidate (s : State) (m : Memory) (v : Word) : State :=
  { s with cand := m, x := s.x.set 2 v }

section
variable (s : State) (m : Memory) (v : Word)

/-! ### What a WBLK reads besides the candidate -/

@[simp] theorem State.withCandidate_status : (s.withCandidate m v).status = s.status := rfl
@[simp] theorem State.withCandidate_flags : (s.withCandidate m v).flags = s.flags := rfl
@[simp] theorem State.withCandidate_params : (s.withCandidate m v).params = s.params := rfl
@[simp] theorem State.withCandidate_rawOff : (s.withCandidate m v).rawOff = s.rawOff :=
  Vector.getElem_set_ne (by decide) (by decide) (by decide)
@[simp] theorem State.withCandidate_rawLen : (s.withCandidate m v).rawLen = s.rawLen :=
  Vector.getElem_set_ne (by decide) (by decide) (by decide)
@[simp] theorem State.withCandidate_candLen : (s.withCandidate m v).candLen = s.candLen :=
  Vector.getElem_set_ne (by decide) (by decide) (by decide)

@[simp] theorem State.withCandidate_comp : (s.withCandidate m v).comp = s.comp := by
  simp [State.comp]

@[simp] theorem State.withCandidate_rawBytes : (s.withCandidate m v).rawBytes = s.rawBytes := by
  rw [State.rawBytes, State.withCandidate_rawOff, State.withCandidate_rawLen]
  rfl

/-! ### The ends of a WBLK keep the candidate apart -/

theorem State.reject_withCandidate (cc : CompletionCode) :
    (s.withCandidate m v).reject cc = (s.reject cc).withCandidate m v := rfl

theorem State.transact_withCandidate (reqs : List SinkRequest) :
    (s.withCandidate m v).transact reqs (fun t => t) (fun t => t) =
      (s.transact reqs (fun t => t) (fun t => t)).withCandidate m v := by
  rcases State.transact_cases s reqs (fun t => t) (fun t => t) with
    ⟨hok, heq⟩ | ⟨n, hn, herr, heq⟩ | ⟨n, hn, hsilent, heq⟩ <;> rw [heq]
  · exact State.transact_ok (s := s.withCandidate m v) hok
  · exact State.transact_err (s := s.withCandidate m v) hn herr
  · exact State.transact_silent (s := s.withCandidate m v) hn hsilent

end

/-! ### WBLK with raw chosen -/

section
variable {s : State} (hraw : s.comp = false) (m : Memory) (v : Word)
include hraw

theorem State.operandsInadmissible_withCandidate :
    (s.withCandidate m v).operandsInadmissible = s.operandsInadmissible := by
  simp [State.operandsInadmissible, hraw]

theorem State.record_withCandidate : (s.withCandidate m v).record = s.record := by
  simp [State.record, State.candBytes, hraw]

theorem State.emitBlock_withCandidate :
    (s.withCandidate m v).emitBlock = s.emitBlock.withCandidate m v := by
  rw [State.emitBlock, State.record_withCandidate hraw, State.withCandidate_comp]
  exact State.transact_withCandidate (s.usePaths s.comp) m v _

theorem State.afterWblk_withCandidate :
    (s.withCandidate m v).afterWblk = s.afterWblk.withCandidate m v := by
  simp only [State.afterWblk, State.operandsInadmissible_withCandidate hraw,
    State.emitBlock_withCandidate hraw, State.withCandidate_status, State.reject_withCandidate,
    apply_ite (State.withCandidate · m v)]

end

/-- Settles O30: WBLK commutes with the change of the candidate. -/
theorem candidateUnreadWhenRawChosen : Obligations.CandidateUnreadWhenRawChosen := by
  intro s t m v hraw h
  cases h
  exact congrArg Host.Outcome.next (State.afterWblk_withCandidate (State.comp_eq_false.2 hraw) m v)

end Sys2Proof.Machine
end

section
/-! PROOFS. The decoder and the encoder: a word is its two fields, and it decodes to a command
exactly when it is that command's word (rules R90 to R92). -/

namespace Sys2Proof

/-! ### The fields of a word -/

/-- The fields `zero` and `op` cover all 32 bits of a word (rule R90). -/
theorem zeroField_append_opField (w : Word) : zeroField w ++ opField w = w :=
  (BitVec.extractLsb'_append_extractLsb'_eq_extractLsb' rfl).trans BitVec.extractLsb'_eq_self

theorem zeroField_encode (i : Instr) : zeroField (encode i) = 0 := by
  cases i with
  | init => exact (Laws.WordFields.init rfl).1
  | wblk => exact (Laws.WordFields.wblk rfl).1
  | close => exact (Laws.WordFields.close rfl).1

theorem opField_encode (i : Instr) : opField (encode i) = opcodeOf i := by
  cases i with
  | init => exact (Laws.WordFields.init rfl).2
  | wblk => exact (Laws.WordFields.wblk rfl).2
  | close => exact (Laws.WordFields.close rfl).2

theorem eq_encode_iff {w : Word} {i : Instr} :
    w = encode i ↔ zeroField w = 0 ∧ opField w = opcodeOf i := by
  constructor
  · rintro rfl
    exact ⟨zeroField_encode i, opField_encode i⟩
  · rintro ⟨hzero, hop⟩
    rw [← zeroField_append_opField w, ← zeroField_append_opField (encode i), hzero, hop,
      zeroField_encode, opField_encode]

/-! ### What a word decodes to -/

theorem decode_of_zeroField_ne {w : Word} (h : zeroField w ≠ 0) : decode w = .error .zeroFieldSet :=
  if_pos h

theorem decode_encode (i : Instr) : decode (encode i) = .ok i := by
  cases i with
  | init => rfl
  | wblk => rfl
  | close => rfl

/-- A word that passes the tests of the decoder has the two fields of the command's word. -/
theorem eq_encode_of_decode {w : Word} {i : Instr} (h : decode w = .ok i) : w = encode i := by
  unfold decode at h
  split_ifs at h with hzero hop hop hop <;> cases h <;>
    exact eq_encode_iff.2 ⟨not_not.1 hzero, hop⟩

theorem decode_eq_ok_iff {w : Word} {i : Instr} : decode w = .ok i ↔ w = encode i :=
  ⟨eq_encode_of_decode, fun h => h ▸ decode_encode i⟩

theorem exists_decode_error_iff {w : Word} :
    (∃ e, decode w = .error e) ↔ ∀ i : Instr, w ≠ encode i := by
  simp only [ne_eq, ← decode_eq_ok_iff]
  cases decode w with
  | ok j => simp
  | error e => simp

/-- The opcodes of the map are 1, 2 and 3 (rule R92). -/
theorem opcodeOf_range (i : Instr) : opcodeOf i ≠ 0 ∧ (opcodeOf i).toNat < 4 := by
  cases i <;> decide

/-- The reserved and illegal words (rule R94) are refused. -/
theorem exists_decode_error {w : Word}
    (h : zeroField w ≠ 0 ∨ opField w = 0 ∨ 4 ≤ (opField w).toNat) :
    ∃ e, decode w = .error e := by
  refine exists_decode_error_iff.2 fun i hi => ?_
  obtain ⟨hzero, hop⟩ := eq_encode_iff.1 hi
  obtain ⟨hne, hlt⟩ := opcodeOf_range i
  rw [← hop] at hne hlt
  rcases h with h | h | h
  · exact h hzero
  · exact hne h
  · omega

/-! ### The statements -/

/-- Settles O3: a word decodes to a command iff it is its encoding. -/
theorem decodeAndEncodeAgree : Obligations.DecodeAndEncodeAgree :=
  ⟨fun i _ => decode_encode i, fun _ _ h => (eq_encode_of_decode h).symm⟩

/-- Settles O2: the words of the three commands are 1, 2 and 3, and every other word is refused. -/
theorem wordIsCommandIffInOpcodeMap : Obligations.WordIsCommandIffInOpcodeMap := by
  intro w
  refine ⟨decode_eq_ok_iff, decode_eq_ok_iff, decode_eq_ok_iff, exists_decode_error_iff.trans ?_⟩
  constructor
  · exact fun h => ⟨h .init, h .wblk, h .close⟩
  · rintro ⟨h1, h2, h3⟩ (_ | _ | _)
    exacts [h1, h2, h3]

/-- Settles O1: the first three words are encodings, the last two have a bit set in field `zero`,
and the other three have a reserved opcode. -/
theorem commandWordsDecode : Obligations.CommandWordsDecode :=
  ⟨decode_encode .init, decode_encode .wblk, decode_encode .close, rfl, rfl, rfl,
    decode_of_zeroField_ne (by decide), decode_of_zeroField_ne (by decide)⟩

end Sys2Proof
end

section
/-! PROOFS. A write to CMD: one step issues the word (rules R91, R223, R249). -/

namespace Sys2Proof.Machine

theorem issue_of_decode_ok {w : Word} {i : Instr} (h : decode w = .ok i) (s : State) :
    issue w s = exec i s := by
  simp only [issue, h]

theorem issue_of_decode_error {w : Word} {e : DecodeReject} (h : decode w = .error e) (s : State) :
    issue w s = .next (s.reject .errOpcode) := by
  simp only [issue, h]

theorem step_of_cmd_pending {s : State} {w : Word} {es : List PortEvent}
    (hwaiting : s.waiting = false) (hpending : s.host.pending = .hwrite 8 w :: es) :
    step s = issue w (s.withPending es) :=
  step_of_pending hwaiting hpending

/-- Settles O4: the step issues the word, and an issued command word runs its command. -/
theorem stepRunsDecodedCommand : Obligations.StepRunsDecodedCommand :=
  fun s _ _ es hwaiting hpending hdecode _ =>
    (step_of_cmd_pending hwaiting hpending).trans (issue_of_decode_ok hdecode (s.withPending es))

/-- Settles O5: the step issues the word, and a refused word is rejected with ERR_OPCODE. -/
theorem reservedWordIsRejected : Obligations.ReservedWordIsRejected := by
  intro s w es hwaiting hpending hreserved
  obtain ⟨e, he⟩ := exists_decode_error hreserved
  exact (step_of_cmd_pending hwaiting hpending).trans (issue_of_decode_error he (s.withPending es))

end Sys2Proof.Machine
end

section
/-! PROOFS. The Header Record: where its fields and its checksum stand (rules R98, R99). -/

namespace Sys2Proof.Machine

section
variable (p : Params) (algo level : Byte) (flags mode mtime : Word)

theorem headerRecord_take_fields :
    (headerRecord p algo level flags mode mtime).take 25 =
      headerFields p algo level flags mode mtime :=
  List.take_left' (headerFields_length ..)

theorem headerRecord_drop_fields : (headerRecord p algo level flags mode mtime).drop 25 =
    be32 (adler32Of p (headerFields p algo level flags mode mtime)) :=
  List.drop_left' (headerFields_length ..)

end

/-- Settles O21: the first 25 bytes are the header fields, the rest their checksum. -/
theorem headerChecksumCoversFields : Obligations.HeaderChecksumCoversFields := by
  intro p algo level flags mode mtime
  refine ⟨headerRecord_length .., ?_⟩
  rw [headerRecord_take_fields, headerRecord_drop_fields]

/-- Settles O22: every field has a fixed width, so each offset of R98's table is reached by counting
bytes. -/
theorem headerRecordLayout : Obligations.HeaderRecordLayout := fun p algo level flags mode mtime =>
  ⟨rfl, rfl, rfl, rfl, rfl, rfl, rfl, rfl, rfl, rfl,
    headerRecord_length p algo level flags mode mtime⟩

end Sys2Proof.Machine
end

section
/-! PROOFS. The length of a Block Record (rule R104): each checksum field is one bit of FLAGS under
a mask, and the masks are distinct single bits (rule R7). -/

namespace Sys2Proof.Machine

/-! ### Counting the bits of a word -/

/-- The number of bits set in a word, as the statement of rule R104 counts them. -/
def bitCount (v : Word) : Nat := (List.range 32).countP fun i => v.getLsbD i

theorem countP_or_of_disjoint {α : Type} {p q : α → Bool} {l : List α}
    (h : ∀ x ∈ l, p x = true → q x = false) :
    (l.countP fun x => p x || q x) = l.countP p + l.countP q := by
  induction l with
  | nil => rfl
  | cons x l ih =>
    obtain ⟨hx, hl⟩ := List.forall_mem_cons.1 h
    simp only [List.countP_cons, ih hl]
    cases hp : p x with
    | false => simp [Nat.add_assoc]
    | true => simp [hx hp, Nat.add_right_comm]

theorem bitCount_or {v w : Word} (h : v &&& w = 0) :
    bitCount (v ||| w) = bitCount v + bitCount w := by
  simp only [bitCount, BitVec.getLsbD_or]
  refine countP_or_of_disjoint fun i _ hv => ?_
  have hbit := congrArg (fun u => BitVec.getLsbD u i) h
  simpa [hv] using hbit

theorem bitCount_zero : bitCount 0 = 0 := by
  simp [bitCount]

theorem bitCount_twoPow {k : Nat} (hk : k < 32) : bitCount (BitVec.twoPow 32 k) = 1 := by
  have hcount := List.count_eq_one_of_mem List.nodup_range (List.mem_range.2 hk)
  have hbit : ∀ i, (BitVec.twoPow 32 k).getLsbD i = (i == k) := fun i => by
    rw [BitVec.getLsbD_twoPow, decide_eq_true hk, Bool.true_and, Bool.beq_eq_decide_eq]
    exact decide_eq_decide.2 eq_comm
  simpa only [bitCount, hbit, List.count] using hcount

theorem twoPow_ne_zero {k : Nat} (hk : k < 32) : BitVec.twoPow 32 k ≠ 0 := fun h => by
  have hone := bitCount_twoPow hk
  rw [h, bitCount_zero] at hone
  exact Nat.zero_ne_one hone

/-! ### The bits of FLAGS under the masks -/

theorem oneBit_iff {m : Word} : oneBit m = true ↔ ∃ k < 32, m = BitVec.twoPow 32 k := by
  simp [oneBit]

theorem bitCount_and_oneBit (flags : Word) {m : Word} (h : oneBit m = true) :
    bitCount (flags &&& m) = (flagSet flags m).toNat := by
  obtain ⟨k, hk, rfl⟩ := oneBit_iff.1 h
  rw [flagSet, BitVec.and_twoPow]
  split
  · rw [bitCount_twoPow hk, decide_eq_true (twoPow_ne_zero hk), Bool.toNat_true]
  · exact bitCount_zero

theorem oneBit_disjoint {m m' : Word} (h : oneBit m = true) (h' : oneBit m' = true) (hne : m ≠ m') :
    m &&& m' = 0 := by
  obtain ⟨j, hj, rfl⟩ := oneBit_iff.1 h
  obtain ⟨k, hk, rfl⟩ := oneBit_iff.1 h'
  have hjk : j ≠ k := fun hjk => hne (hjk ▸ rfl)
  rw [BitVec.and_twoPow, BitVec.getLsbD_twoPow]
  simp [hjk]

/-- Two distinct masks: each flag that is set counts once (rule R104). -/
theorem bitCount_and_masks (flags : Word) {m m' : Word} (h : oneBit m = true)
    (h' : oneBit m' = true) (hne : m ≠ m') : bitCount (flags &&& (m ||| m')) =
      (flagSet flags m).toNat + (flagSet flags m').toNat := by
  have hdisjoint : (flags &&& m) &&& (flags &&& m') = 0 := calc
    (flags &&& m) &&& (flags &&& m') = (flags &&& flags) &&& (m &&& m') := by ac_rfl
    _ = 0 := by rw [oneBit_disjoint h h' hne]; exact BitVec.and_zero
  rw [BitVec.and_or_distrib_left, bitCount_or hdisjoint, bitCount_and_oneBit flags h,
    bitCount_and_oneBit flags h']

/-! ### The fields of the record -/

theorem fieldIf_be32_length (present : Bool) (v : Word) :
    (fieldIf present (be32 v)).length = 4 * present.toNat := by
  cases present <;> rfl

theorem blockRecord_length (p : Params) (flags rl cl : Word) (raw cand : List Byte) :
    (blockRecord p flags rl cl raw cand).length =
      8 + 4 * ((flagSet flags p.fAdler32D).toNat + (flagSet flags p.fCrc32D).toNat) +
      (if compChosen rl cl then
        4 * ((flagSet flags p.fAdler32C).toNat + (flagSet flags p.fCrc32C).toNat) else 0) +
      (if compChosen rl cl then cand.length else raw.length) := by
  simp only [blockRecord, List.length_append, be32_length, fieldIf_be32_length]
  cases compChosen rl cl with
  | false => simp only [Bool.false_and, Bool.toNat_false, Bool.false_eq_true, if_false]; omega
  | true => simp only [Bool.true_and, if_true]; omega

/-- Settles O28: each field that is present has four bytes, and its flag is one bit of FLAGS. -/
theorem blockRecordLength : Obligations.BlockRecordLength := by
  intro p flags rl cl raw cand hp hraw hcand ones nD nC comp sl
  refine ⟨?_, blockRecord_length_ge ..⟩
  obtain ⟨hadlerD, hadlerC, hcrcD, hcrcC, hdistinct, -, -⟩ := hp
  have hneD : p.fAdler32D ≠ p.fCrc32D := fun heq => by simp [heq] at hdistinct
  have hneC : p.fAdler32C ≠ p.fCrc32C := fun heq => by simp [heq] at hdistinct
  have hD : nD = _ := bitCount_and_masks flags hadlerD hcrcD hneD
  have hC : nC = _ := bitCount_and_masks flags hadlerC hcrcC hneC
  have hpayload : (if compChosen rl cl then cand.length else raw.length) = sl :=
    if_ctx_congr Iff.rfl (fun hcomp => hcand (compChosen_eq_true.1 hcomp)) fun _ => hraw
  rw [blockRecord_length, hpayload, hD, hC]
  rfl

end Sys2Proof.Machine
end

section
/-! PROOFS. WBLK where it completes (rules R101, R171, R174 to R177). -/

namespace Sys2Proof.Machine

open Sys2Proof.Safety

/-! ### The optional fields of the record, by the bits of FLAGS -/

theorem fieldIf_flagSet (flags mask : Word) (field : List Byte) :
    fieldIf (flagSet flags mask) field = if flags &&& mask ≠ 0 then field else [] :=
  if_congr flagSet_eq_true rfl rfl

theorem fieldIf_and_flagSet (comp : Bool) (flags mask : Word) (field : List Byte) :
    fieldIf (comp && flagSet flags mask) field =
      if flags &&& mask ≠ 0 ∧ comp = true then field else [] :=
  if_congr (by rw [Bool.and_eq_true, flagSet_eq_true, and_comm]) rfl rfl

/-! ### The emission -/

theorem State.emitBlock_ok {s : State} (h : AnswersOk s.sink s.record.length) : s.emitBlock =
    ({ s.usePaths s.comp with
      sink := sinkAfter s.sink (s.record.map .data) s.record.length } : State).completeOk := by
  rw [State.emitBlock, State.transact_ok (by rwa [emitRequests_length]), emitRequests_length]
  rfl

/-- When raw is chosen the C path is idle (rule R137). -/
theorem State.usePaths_raw_chosen (s : State) :
    (s.usePaths false).acc.adlerC = s.acc.adlerC ∧ (s.usePaths false).acc.crcC = s.acc.crcC :=
  ⟨rfl, rfl⟩

/-- Settles O25: the admitted WBLK uses its paths and sends the record, whose fields are R101's. -/
theorem wblkCompletes : Obligations.WblkCompletes := by
  intro s hfault hconstructed hclosed hrawLen hcandLen hrawFits hcandFits comp raw cand bytes
    hanswers
  have hoperands : s.operandsInadmissible = false := Bool.eq_false_iff.2 fun hbad => by
    have htests := State.operandsInadmissible_eq_true.1 hbad
    omega
  have hadmitted : WblkAdmitted s := ⟨hfault, hconstructed, hclosed, hoperands⟩
  have hexec : exec .wblk s = .next s.emitBlock :=
    congrArg Host.Outcome.next (afterWblk_admitted hadmitted)
  have hrecord : s.record = bytes := by
    rw [State.record_eq]
    simp only [blockRecord, fieldIf_flagSet, fieldIf_and_flagSet]
    rfl
  have hkept := SetupKept.usePaths s s.comp
  refine ⟨(s.usePaths s.comp).acc, (s.usePaths s.comp).freeTick, ?_, hkept.adlerD, hkept.crcD,
    hkept.adlerC, hkept.crcC, fun hraw => ?_⟩
  · rw [hexec, State.emitBlock_ok (hrecord ▸ hanswers), hrecord]
    rfl
  · rw [show s.comp = false from hraw]
    exact s.usePaths_raw_chosen

end Sys2Proof.Machine
end

section
/-! PROOFS. The first CLOSE where it completes (rules R105, R201, R204). -/

namespace Sys2Proof.Machine

open Sys2Proof.Safety

theorem State.emitClose_ok {s : State} (h : AnswersOk s.sink 6) : s.emitClose = { s with
    status := { s.status with closed := true, lastcc := CompletionCode.ok.code }
    sink := sinkAfter s.sink closeRequests 6 } :=
  State.transact_ok h

/-- Settles O33: the admitted CLOSE sends its six requests. -/
theorem closeCompletes : Obligations.CloseCompletes := by
  intro s hfault hconstructed hclosed hanswers
  have hexec : exec .close s = .next s.emitClose :=
    congrArg Host.Outcome.next (afterClose_admitted ⟨hfault, hconstructed, hclosed⟩)
  rw [hexec, State.emitClose_ok hanswers, closeRequests_eq]
  rfl

end Sys2Proof.Machine
end

section
/-! PROOFS. The updates of the checksum engine compose (rule R134). -/

namespace Sys2Proof.Machine

theorem adlerUpdate_append (acc : AdlerAcc) (s₁ s₂ : List Byte) :
    adlerUpdate acc (s₁ ++ s₂) = adlerUpdate (adlerUpdate acc s₁) s₂ := List.foldl_append

theorem crcUpdate_append (acc : CrcAcc) (s₁ s₂ : List Byte) :
    crcUpdate acc (s₁ ++ s₂) = crcUpdate (crcUpdate acc s₁) s₂ := List.foldl_append

theorem otherUpdate_append (k running : Nat) (s₁ s₂ : List Byte) :
    otherUpdate k running (s₁ ++ s₂) = otherUpdate k (otherUpdate k running s₁) s₂ :=
  List.foldl_append

/-- Settles O16: each checksum is defined as reset, update, read, and an update is a fold. -/
theorem checksumsAreIncremental : Obligations.ChecksumsAreIncremental :=
  ⟨fun _ => rfl, fun _ => rfl,
    fun s₁ s₂ => congrArg adlerRead (adlerUpdate_append adlerReset s₁ s₂).symm,
    fun s₁ s₂ => congrArg crcRead (crcUpdate_append crcReset s₁ s₂).symm,
    fun _ _ => rfl,
    fun k s₁ s₂ =>
      congrArg (Config.otherRead k) (otherUpdate_append k (Config.otherReset k) s₁ s₂).symm⟩

end Sys2Proof.Machine
end

section
/-! PROOFS. Adler-32 in closed form (rule R131): the loop modulo 65521, and the word that is read of
its two values. -/

namespace Sys2Proof.Machine

open Sys2Proof.Safety

/-- The sum of the bytes, as the closed form writes it. -/
def byteSum (s : List Byte) : Nat := ((List.range s.length).map fun i => (s.getD i 0).toNat).sum

/-- The sum of the bytes, each weighted with the number of steps of the loop that add it to b, as the
closed form writes it. -/
def weightedByteSum (s : List Byte) : Nat :=
  ((List.range s.length).map fun i => (s.length - i) * (s.getD i 0).toNat).sum

theorem byteSum_cons (byte : Byte) (rest : List Byte) :
    byteSum (byte :: rest) = byte.toNat + byteSum rest := by
  simp [byteSum, List.range_succ_eq_map, Function.comp_def]

theorem weightedByteSum_cons (byte : Byte) (rest : List Byte) :
    weightedByteSum (byte :: rest) = (rest.length + 1) * byte.toNat + weightedByteSum rest := by
  simp [weightedByteSum, List.range_succ_eq_map, Function.comp_def]

theorem adlerStep_a (acc : AdlerAcc) (byte : Byte) :
    (adlerStep acc byte).a.toNat = (acc.a.toNat + byte.toNat) % adlerModulus := by
  simp only [adlerStep, adlerModulus, BitVec.toNat_ofNat]
  omega

theorem adlerStep_b (acc : AdlerAcc) (byte : Byte) :
    (adlerStep acc byte).b.toNat = (acc.b.toNat + (adlerStep acc byte).a.toNat) % adlerModulus := by
  simp only [adlerStep, adlerModulus, BitVec.toNat_ofNat]
  omega

theorem adlerStep_a_modEq (acc : AdlerAcc) (byte : Byte) :
    (adlerStep acc byte).a.toNat ≡ acc.a.toNat + byte.toNat [MOD adlerModulus] := by
  rw [adlerStep_a]
  exact Nat.mod_modEq _ _

theorem adlerStep_b_modEq (acc : AdlerAcc) (byte : Byte) :
    (adlerStep acc byte).b.toNat ≡ acc.b.toNat + (acc.a.toNat + byte.toNat) [MOD adlerModulus] := by
  rw [adlerStep_b]
  exact (Nat.mod_modEq _ _).trans ((adlerStep_a_modEq acc byte).add_left _)

/-- The update adds every byte to a. -/
theorem adlerUpdate_a_modEq (acc : AdlerAcc) (s : List Byte) :
    (adlerUpdate acc s).a.toNat ≡ acc.a.toNat + byteSum s [MOD adlerModulus] := by
  induction s generalizing acc with
  | nil => rfl
  | cons byte rest ih => calc
      (adlerUpdate (adlerStep acc byte) rest).a.toNat
        ≡ (adlerStep acc byte).a.toNat + byteSum rest [MOD adlerModulus] := ih _
      _ ≡ acc.a.toNat + byte.toNat + byteSum rest [MOD adlerModulus] :=
        (adlerStep_a_modEq acc byte).add_right _
      _ = acc.a.toNat + byteSum (byte :: rest) := by rw [byteSum_cons, Nat.add_assoc]

/-- The update adds the first a to b once per byte, and each byte once in its own step and once in
every later one. -/
theorem adlerUpdate_b_modEq (acc : AdlerAcc) (s : List Byte) :
    (adlerUpdate acc s).b.toNat ≡
      acc.b.toNat + s.length * acc.a.toNat + weightedByteSum s [MOD adlerModulus] := by
  induction s generalizing acc with
  | nil => simp [adlerUpdate, weightedByteSum, Nat.ModEq.refl]
  | cons byte rest ih => calc
      (adlerUpdate (adlerStep acc byte) rest).b.toNat
        ≡ (adlerStep acc byte).b.toNat + rest.length * (adlerStep acc byte).a.toNat
            + weightedByteSum rest [MOD adlerModulus] := ih _
      _ ≡ acc.b.toNat + (acc.a.toNat + byte.toNat) + rest.length * (acc.a.toNat + byte.toNat)
            + weightedByteSum rest [MOD adlerModulus] :=
        ((adlerStep_b_modEq acc byte).add ((adlerStep_a_modEq acc byte).mul_left _)).add_right _
      _ = acc.b.toNat + (byte :: rest).length * acc.a.toNat + weightedByteSum (byte :: rest) := by
        rw [weightedByteSum_cons, List.length_cons]
        ring

/-- The word read is b above a (rule R38). -/
theorem adlerRead_eq_ofNat (acc : AdlerAcc) :
    adlerRead acc = BitVec.ofNat 32 (acc.b.toNat * 65536 + acc.a.toNat) := by
  have ha : (acc.a.zeroExtend 32).toNat = acc.a.toNat :=
    BitVec.toNat_setWidth_of_le (by decide)
  have hb : (acc.b.zeroExtend 32 <<< 16).toNat = acc.b.toNat <<< 16 := by
    rw [BitVec.toNat_shiftLeft, BitVec.toNat_setWidth_of_le (by decide), Nat.shiftLeft_eq]
    omega
  have hadd := Nat.shiftLeft_add_eq_or_of_lt acc.a.isLt acc.b.toNat
  refine BitVec.eq_of_toNat_eq ?_
  rw [adlerRead, BitVec.toNat_or, ha, hb, ← hadd, Nat.shiftLeft_eq, BitVec.toNat_ofNat]
  omega

/-- After reset the first a is 1, and the values stay in range (rule R38). -/
theorem adlerUpdate_reset_a (s : List Byte) :
    (adlerUpdate adlerReset s).a.toNat = (1 + byteSum s) % adlerModulus := by
  obtain ⟨hlt, -⟩ := adlerUpdate_inRange s (acc := adlerReset) (by decide)
  have hmod : _ ≡ 1 + byteSum s [MOD adlerModulus] := adlerUpdate_a_modEq adlerReset s
  rwa [Nat.ModEq, Nat.mod_eq_of_lt hlt] at hmod

theorem adlerUpdate_reset_b (s : List Byte) :
    (adlerUpdate adlerReset s).b.toNat = (s.length + weightedByteSum s) % adlerModulus := by
  obtain ⟨-, hlt⟩ := adlerUpdate_inRange s (acc := adlerReset) (by decide)
  have hmod : _ ≡ 0 + s.length * 1 + weightedByteSum s [MOD adlerModulus] :=
    adlerUpdate_b_modEq adlerReset s
  rwa [Nat.zero_add, Nat.mul_one, Nat.ModEq, Nat.mod_eq_of_lt hlt] at hmod

/-- Settles O17: the word read of the two values after the update. -/
theorem adler32ClosedForm : Obligations.Adler32ClosedForm := by
  intro s n a b
  rw [adler32, adlerRead_eq_ofNat, adlerUpdate_reset_a, adlerUpdate_reset_b]
  rfl

end Sys2Proof.Machine
end

section
/-! PROOFS. CRC-32 tells messages apart (rule R132): every step of the loop is injective. The shift
loses bit 0, but the polynomial's bit 31 is 1 and the shifted word's is 0, so bit 31 of the result
tells what bit 0 was. -/

namespace Sys2Proof.Machine

theorem crcShift_bit31 (c : Word) : (crcShift c).getLsbD 31 = c.getLsbD 0 := by
  have hshift : (c >>> 1).getLsbD 31 = false := by
    rw [BitVec.getLsbD_ushiftRight]
    exact BitVec.getLsbD_of_ge _ _ (by decide)
  have hpoly : crcPolynomial.getLsbD 31 = true := by decide
  unfold crcShift
  split
  next hbit => rw [BitVec.getLsbD_xor, hshift, hpoly, hbit]; rfl
  next hbit => rw [hshift, Bool.eq_false_of_not_eq_true hbit]

theorem eq_of_ushiftRight_one_eq {c c' : Word} (hbit : c.getLsbD 0 = c'.getLsbD 0)
    (hshift : c >>> 1 = c' >>> 1) : c = c' := by
  refine BitVec.eq_of_getLsbD_eq fun i _ => ?_
  cases i with
  | zero => exact hbit
  | succ i => simpa [Nat.add_comm] using congrArg (BitVec.getLsbD · i) hshift

theorem crcShift_injective : Function.Injective crcShift := by
  intro c c' h
  have hbit : c.getLsbD 0 = c'.getLsbD 0 := by rw [← crcShift_bit31, h, crcShift_bit31]
  refine eq_of_ushiftRight_one_eq hbit ?_
  unfold crcShift at h
  rw [hbit] at h
  split at h
  · exact (BitVec.xor_left_inj _).1 h
  · exact h

theorem crcShifts_injective (n : Nat) : Function.Injective (crcShifts n) := by
  induction n with
  | zero => exact Function.injective_id
  | succ n ih => exact ih.comp crcShift_injective

theorem crcStep_left_injective (byte : Byte) : Function.Injective (crcStep · byte) := by
  rintro ⟨c⟩ ⟨c'⟩ h
  have hxor := crcShifts_injective 8 (CrcAcc.mk.inj h)
  exact congrArg CrcAcc.mk ((BitVec.xor_left_inj _).1 hxor)

theorem zeroExtend_injective : Function.Injective (BitVec.zeroExtend 32 : Byte → Word) := by
  intro byte byte' h
  have hback := congrArg (BitVec.setWidth 8) h
  simpa using hback

theorem crcStep_right_injective (acc : CrcAcc) : Function.Injective (crcStep acc) := by
  intro byte byte' h
  have hxor := crcShifts_injective 8 (CrcAcc.mk.inj h)
  have hword : byte.zeroExtend 32 = byte'.zeroExtend 32 := (BitVec.xor_right_inj _).1 hxor
  exact zeroExtend_injective hword

theorem crcUpdate_injective (bytes : List Byte) : Function.Injective (crcUpdate · bytes) := by
  induction bytes with
  | nil => exact Function.injective_id
  | cons byte rest ih => exact ih.comp (crcStep_left_injective byte)

theorem crcRead_injective : Function.Injective crcRead := by
  rintro ⟨c⟩ ⟨c'⟩ h
  exact congrArg CrcAcc.mk ((BitVec.xor_left_inj _).1 h)

/-- The CRC-32 of a message as one step for the byte in the middle, between the updates with what
stands before it and after it. -/
theorem crc32_middle (s₁ s₂ : List Byte) (b : Byte) : crc32 (s₁ ++ [b] ++ s₂) =
    crcRead (crcUpdate (crcStep (crcUpdate crcReset s₁) b) s₂) := by
  rw [crc32, crcUpdate_append, crcUpdate_append]
  rfl

/-- Settles O18: the two bytes give different contents in their own step, and the later steps and the
read keep different contents apart. -/
theorem crc32DetectsSingleByteChange : Obligations.Crc32DetectsSingleByteChange := by
  intro s₁ s₂ b b' hne heq
  rw [crc32_middle, crc32_middle] at heq
  have hstep := crcUpdate_injective s₂ (crcRead_injective heq)
  exact hne (crcStep_right_injective _ hstep)

end Sys2Proof.Machine
end

section
/-! PROOFS. The record of an empty chunk (rules R142, R182 c). -/

namespace Sys2Proof.Machine

theorem compChosen_zero (cl : Word) : compChosen 0 cl = false :=
  compChosen_eq_false.2 (Nat.not_lt_zero _)

/-- With no raw bytes neither the C path's checksums nor a payload are in the record. -/
theorem blockRecord_zero (p : Params) (flags cl : Word) (cand : List Byte) :
    blockRecord p flags 0 cl [] cand = be32 0 ++ be32 0 ++
      fieldIf (flagSet flags p.fAdler32D) (be32 (adler32Of p [])) ++
      fieldIf (flagSet flags p.fCrc32D) (be32 (crc32Of p [])) := by
  simp only [blockRecord, storedLength, compChosen_zero, Bool.false_and, fieldIf, Bool.false_eq_true,
    if_false, List.append_nil]

/-- Settles O32: the C path and the candidate drop out, and the reference checksums of the empty
sequence are rule R142's. -/
theorem emptyChunkRecord : Obligations.EmptyChunkRecord := by
  intro p flags cl cand
  refine ⟨?_, fun hadler => ?_, fun hcrc => ?_⟩
  · rw [blockRecord_zero, fieldIf_flagSet, fieldIf_flagSet]
    rfl
  · rw [adler32Of_reference hadler, adler32_examples.1]
    decide
  · rw [crc32Of_reference hcrc, crc32_examples.1]
    decide

end Sys2Proof.Machine
end

section
/-! PROOFS. INIT where it does not complete (rule R158): the rejections, the format check, and the
first request that the sink answers ERR. -/

namespace Sys2Proof.Machine

open Sys2Proof.Safety

/-! ### Before the first request (rules R152, R153) -/

section
variable {s : State}

theorem afterInit_of_fault (hfault : s.status.fault = true) : s.afterInit = s.reject .errFaulted :=
  if_pos hfault

theorem afterInit_of_constructed (hfault : s.status.fault = false)
    (hconstructed : s.status.constructed = true) : s.afterInit = s.reject .errState := by
  simp [State.afterInit, hfault, hconstructed]

theorem afterInit_of_format (hfault : s.status.fault = false)
    (hconstructed : s.status.constructed = false)
    (hformat : s.algo ≠ s.params.algoLzo1x ∨ s.level ≠ s.params.levelLzo1x) :
    s.afterInit = s.raiseFormatFault := by
  simp [State.afterInit, hfault, hconstructed, hformat]

/-! ### The emission -/

theorem exec_init_admitted (h : InitAdmitted s) : exec .init s = .next s.latchFlags.emitHeader :=
  congrArg Host.Outcome.next (afterInit_admitted h)

/-- The latch keeps the operand registers and the parameters, so the header names the legal
algorithm and level, and the latched FLAGS (rules R98, R154). -/
theorem InitAdmitted.initRequests_latchFlags (h : InitAdmitted s) :
    s.latchFlags.initRequests = emitRequests (s.params.magic.toList ++
      headerRecord s.params s.params.algoLzo1x s.params.levelLzo1x (s.x[4] &&& s.params.flagMask)
        s.x[6] s.x[7]) := by
  obtain ⟨-, -, halgo, hlevel⟩ := h
  rw [← halgo, ← hlevel]
  rfl

theorem emitRequests_take (bytes : List Byte) (n : Nat) :
    (emitRequests bytes).take n = (bytes.take n).map .data :=
  List.map_take.symm

theorem State.emitHeader_err {n : Nat} (hn : n < 38) (h : AnswersThen s.sink n .err) :
    s.emitHeader =
      ({ s with sink := sinkAfter s.sink (s.initRequests.take n) (n + 1) } : State).raiseIoFault :=
  State.transact_err (by rwa [State.initRequests_length]) h

end

/-- Settles O24: each row is one way out of `afterInit`; in the last, the n requests before the one
answered ERR are the first n bytes. -/
theorem initExceptions : Obligations.InitExceptions := by
  intro s
  refine ⟨fun hfault => congrArg Host.Outcome.next (afterInit_of_fault hfault),
    fun hfault hconstructed =>
      congrArg Host.Outcome.next (afterInit_of_constructed hfault hconstructed),
    fun hfault hconstructed hformat =>
      congrArg Host.Outcome.next (afterInit_of_format hfault hconstructed hformat),
    fun hfault hconstructed halgo hlevel k hk hk38 herr => ?ioFault⟩
  case ioFault =>
    obtain ⟨n, rfl⟩ : ∃ n, k = n + 1 := ⟨k - 1, by omega⟩
    have hadmitted : InitAdmitted s := ⟨hfault, hconstructed, halgo, hlevel⟩
    refine ⟨s.latchFlags.acc, s.latchFlags.freeTick, ?_⟩
    rw [exec_init_admitted hadmitted, State.emitHeader_err (s := s.latchFlags) hk38 herr,
      hadmitted.initRequests_latchFlags, emitRequests_take]
    rfl

end Sys2Proof.Machine
end

section
/-! PROOFS. A sink that does not answer (rules R224, R301): the commands that are left waiting for
it, and the step of a machine that waits. -/

namespace Sys2Proof.Machine

open Sys2Proof.Safety

/-! ### The step of a waiting machine -/

theorem step_of_waiting {s : State} (hwaiting : s.waiting = true)
    (hreset : ∀ es, s.host.pending ≠ .reset :: es) : step s = .next s := by
  unfold step takeEvent
  split
  next => rfl
  next hidle _ => exact absurd (hidle.symm.trans hwaiting) Bool.false_ne_true
  next es _ hpending => exact absurd hpending (hreset es)
  next => rfl

/-! ### Each command, admitted -/

section
variable {s : State} {n : Nat}

theorem State.emitHeader_silent (hn : n < 38) (h : AnswersThen s.sink n .silent) :
    s.emitHeader = { s with
      sink := sinkAfter s.sink (s.initRequests.take n) (n + 1)
      hacc := some s.headerAcc
      waiting := true } :=
  State.transact_silent (by rwa [State.initRequests_length]) h

theorem State.emitBlock_silent (hn : n < s.record.length) (h : AnswersThen s.sink n .silent) :
    s.emitBlock = ({ s.usePaths s.comp with
      sink := sinkAfter s.sink ((emitRequests s.record).take n) (n + 1) } : State).wait :=
  State.transact_silent (s := s.usePaths s.comp) (by rwa [emitRequests_length]) h

theorem State.emitClose_silent (hn : n < 6) (h : AnswersThen s.sink n .silent) :
    s.emitClose =
      ({ s with sink := sinkAfter s.sink (closeRequests.take n) (n + 1) } : State).wait :=
  State.transact_silent hn h

end

/-! ### A command that is left waiting -/

/-- How a command that makes `reqs` leaves the state it waits in: STATUS as it was, and the requests
before the one that is not answered accepted. -/
def LeftWaiting (reqs : List SinkRequest) (s t : State) : Prop :=
  t.status = s.status ∧ ∃ n < reqs.length, AnswersThen s.sink n .silent ∧
    t.sink = sinkAfter s.sink (reqs.take n) (n + 1)

theorem LeftWaiting.status {reqs : List SinkRequest} {s t : State} (h : LeftWaiting reqs s t) :
    t.status = s.status := h.1

/-- The accepted trace has grown by exactly the requests before the one that is not answered. -/
theorem LeftWaiting.accepted {reqs : List SinkRequest} {s t : State} (h : LeftWaiting reqs s t) :
    ∃ n < reqs.length, AnswersThen s.sink n .silent ∧ s.sink.accepted <+: t.sink.accepted ∧
      t.sink.accepted.length = s.sink.accepted.length + n := by
  obtain ⟨-, n, hn, hsilent, hsink⟩ := h
  have haccepted : t.sink.accepted = s.sink.accepted ++ reqs.take n := by rw [hsink]; rfl
  refine ⟨n, hn, hsilent, haccepted ▸ List.prefix_append .., ?_⟩
  rw [haccepted, List.length_append, List.length_take_of_le hn.le]

/-- Only a request that is not answered leaves an admitted command waiting. -/
theorem State.transact_leftWaiting {s : State} {reqs : List SinkRequest}
    {onOk onWait : State → State} (hidle : s.waiting = false)
    (hok : ∀ u, (onOk u).waiting = u.waiting)
    (hstatus : ∀ u, (onWait u).status = u.status) (hsink : ∀ u, (onWait u).sink = u.sink)
    (hwaiting : (s.transact reqs onOk onWait).waiting = true) :
    LeftWaiting reqs s (s.transact reqs onOk onWait) := by
  rcases State.transact_cases s reqs onOk onWait with
    ⟨-, heq⟩ | ⟨n, -, -, heq⟩ | ⟨n, hn, hsilent, heq⟩ <;> rw [heq] at hwaiting ⊢
  · rw [State.completeOk_waiting, hok] at hwaiting
    exact absurd (hidle.symm.trans hwaiting) Bool.false_ne_true
  · exact absurd (hidle.symm.trans hwaiting) Bool.false_ne_true
  · exact ⟨hstatus _, n, hn, hsilent, hsink _⟩

/-- Rejections, the format check and the second CLOSE complete; so a command that is left waiting
was admitted. -/
theorem exec_leftWaiting {i : Instr} {s t : State} (hidle : s.waiting = false)
    (h : exec i s = .next t) (hwaiting : t.waiting = true) :
    ∃ reqs, reqs.length = requestCount i s ∧ LeftWaiting reqs s t := by
  have hnotEarly (hearly : t.waiting = s.waiting) :
      ∃ reqs, reqs.length = requestCount i s ∧ LeftWaiting reqs s t :=
    absurd (hidle.symm.trans (hearly.symm.trans hwaiting)) Bool.false_ne_true
  rcases exec_cases h with ⟨-, rfl⟩ | ⟨-, rfl, -⟩ | ⟨-, -, -, -, -, rfl⟩ | ⟨-, -, -, -, rfl⟩ |
    ⟨-, -, -, -, rfl⟩ | ⟨rfl, -, rfl⟩ | ⟨rfl, -, rfl⟩ | ⟨rfl, -, rfl⟩
  · exact hnotEarly rfl
  · exact hnotEarly rfl
  · exact hnotEarly rfl
  · exact hnotEarly rfl
  · exact hnotEarly rfl
  · exact ⟨s.latchFlags.initRequests, State.initRequests_length _,
      State.transact_leftWaiting (s := s.latchFlags) hidle (fun _ => rfl) (fun _ => rfl)
        (fun _ => rfl) hwaiting⟩
  · exact ⟨emitRequests s.record, emitRequests_length _,
      State.transact_leftWaiting (s := s.usePaths s.comp) hidle (fun _ => rfl) (fun _ => rfl)
        (fun _ => rfl) hwaiting⟩
  · exact ⟨closeRequests, closeRequests_length,
      State.transact_leftWaiting hidle (fun _ => rfl) (fun _ => rfl) (fun _ => rfl) hwaiting⟩

/-- Settles O47: a command that waits has stopped at a request that is not answered, and each
admitted command stops there with the requests before it accepted. -/
theorem silentSinkBlocksUntilReset : Obligations.SilentSinkBlocksUntilReset := by
  refine ⟨fun i s t hidle hexec hwaiting => ?waiting,
    fun s hfault hconstructed halgo hlevel n hn hsilent => ?init,
    fun s hfault hconstructed hclosed hoperands n hn hsilent => ?wblk,
    fun s hfault hconstructed hclosed n hn hsilent => ?close⟩
  case waiting =>
    obtain ⟨reqs, hcount, hleft⟩ := exec_leftWaiting hidle hexec hwaiting
    exact ⟨hleft.status, hcount ▸ hleft.accepted, step_of_waiting hwaiting⟩
  case init =>
    have hadmitted : InitAdmitted s := ⟨hfault, hconstructed, halgo, hlevel⟩
    refine ⟨s.latchFlags.acc, some s.latchFlags.headerAcc, s.latchFlags.freeTick, ?_⟩
    rw [exec_init_admitted hadmitted, State.emitHeader_silent (s := s.latchFlags) hn hsilent,
      hadmitted.initRequests_latchFlags, emitRequests_take]
    rfl
  case wblk =>
    have hexec : exec .wblk s = .next s.emitBlock :=
      congrArg Host.Outcome.next (afterWblk_admitted ⟨hfault, hconstructed, hclosed, hoperands⟩)
    refine ⟨(s.usePaths s.comp).acc, (s.usePaths s.comp).freeTick, ?_⟩
    rw [hexec, State.emitBlock_silent hn hsilent, emitRequests_take, State.record_eq]
    rfl
  case close =>
    have hexec : exec .close s = .next s.emitClose :=
      congrArg Host.Outcome.next (afterClose_admitted ⟨hfault, hconstructed, hclosed⟩)
    rw [hexec, State.emitClose_silent hn hsilent, closeRequests_eq]
    rfl

end Sys2Proof.Machine
end

section
/-! PROOFS. The two length fields of a Block Record and its payload (rules R101, R103, R175). -/

namespace Sys2Proof.Machine

section
variable (p : Params) (flags rl cl : Word) (raw cand : List Byte)

theorem storedLength_eq : storedLength rl cl = if cl.toNat < rl.toNat then cl else rl :=
  if_congr compChosen_eq_true rfl rfl

theorem storedLength_le : (storedLength rl cl).toNat ≤ rl.toNat := by
  rw [storedLength_eq]
  split
  next hlt => exact hlt.le
  next => exact le_rfl

/-- The stored length marks the choice: a candidate is chosen only where it is shorter (rule R103). -/
theorem storedLength_eq_rawLength_iff : storedLength rl cl = rl ↔ compChosen rl cl = false := by
  rw [storedLength_eq, compChosen_eq_false]
  split
  next hlt => exact iff_of_false (fun heq => hlt.ne (congrArg BitVec.toNat heq)) (not_not_intro hlt)
  next hge => exact iff_of_true rfl hge

theorem blockRecord_take_rawLength :
    (blockRecord p flags rl cl raw cand).take 4 = be32 rl := rfl

theorem blockRecord_take_storedLength :
    ((blockRecord p flags rl cl raw cand).drop 4).take 4 = be32 (storedLength rl cl) := rfl

theorem payload_suffix_blockRecord :
    (if compChosen rl cl then cand else raw) <:+ blockRecord p flags rl cl raw cand :=
  List.suffix_append ..

end

/-- Settles O29: the payload follows the choice, and the stored length says which it was. -/
theorem storedLengthMarksRawPayload : Obligations.StoredLengthMarksRawPayload := by
  intro p flags rl cl raw cand sl r
  have hsl : sl = storedLength rl cl := (storedLength_eq rl cl).symm
  have hmark : sl = rl ↔ compChosen rl cl = false := hsl ▸ storedLength_eq_rawLength_iff rl cl
  have hpayload := payload_suffix_blockRecord p flags rl cl raw cand
  refine ⟨blockRecord_take_rawLength .., hsl ▸ blockRecord_take_storedLength ..,
    hsl ▸ storedLength_le rl cl, hmark.trans compChosen_eq_false, fun hraw => ?raw, fun hcand => ?cand⟩
  case raw => simpa only [hmark.1 hraw, Bool.false_eq_true, if_false] using hpayload
  case cand =>
    have hcomp : compChosen rl cl = true := Bool.eq_true_of_not_eq_false (mt hmark.2 hcand)
    simpa only [hcomp, if_true] using hpayload

end Sys2Proof.Machine
end

section
/-! PROOFS. WBLK where it does not complete (rules R172, R173, R181): the rejections, and the first
byte of the record that the sink answers ERR. -/

namespace Sys2Proof.Machine

open Sys2Proof.Safety

section
variable {s : State}

/-! ### Before the first request -/

theorem exec_wblk_of_fault (hfault : s.status.fault = true) :
    exec .wblk s = .next (s.reject .errFaulted) :=
  congrArg Host.Outcome.next (if_pos hfault)

theorem exec_wblk_of_not_open (hfault : s.status.fault = false)
    (hstate : s.status.constructed = false ∨ s.status.closed = true) :
    exec .wblk s = .next (s.reject .errState) :=
  congrArg Host.Outcome.next (by simp [State.afterWblk, hfault, hstate])

theorem exec_wblk_of_operands (hfault : s.status.fault = false)
    (hconstructed : s.status.constructed = true) (hclosed : s.status.closed = false)
    (hoperands : s.operandsInadmissible = true) :
    exec .wblk s = .next (s.reject .errOperand) :=
  congrArg Host.Outcome.next
    (by simp [State.afterWblk, hfault, hconstructed, hclosed, hoperands])

/-! ### The emission -/

theorem exec_wblk_admitted (h : WblkAdmitted s) : exec .wblk s = .next s.emitBlock :=
  congrArg Host.Outcome.next (afterWblk_admitted h)

theorem State.emitBlock_err {n : Nat} (hn : n < s.record.length) (h : AnswersThen s.sink n .err) :
    s.emitBlock = ({ s.usePaths s.comp with
      sink := sinkAfter s.sink ((s.record.take n).map .data) (n + 1) } : State).raiseIoFault := by
  rw [← emitRequests_take]
  exact State.transact_err (s := s.usePaths s.comp) (by rwa [emitRequests_length]) h

end

/-- Every record has bytes, so the emission makes a request, however the sink answers it. -/
theorem State.emitBlock_asks (s : State) : s.sink.asked < s.emitBlock.sink.asked := by
  have hlength : 8 ≤ s.record.length := blockRecord_length_ge ..
  rcases s.emitBlock_cases with ⟨-, heq⟩ | ⟨n, -, -, heq⟩ | ⟨n, -, -, heq⟩ <;> rw [heq]
  · exact Nat.lt_add_of_pos_right (by omega)
  · exact Nat.lt_add_of_pos_right n.succ_pos
  · exact Nat.lt_add_of_pos_right n.succ_pos

theorem State.emitBlock_cause (s : State) :
    s.emitBlock.status.cause = s.status.cause ∨ s.emitBlock.status.cause = 1 := by
  rcases s.emitBlock_cases with ⟨-, heq⟩ | ⟨n, -, -, heq⟩ | ⟨n, -, -, heq⟩ <;> rw [heq]
  · exact .inl rfl
  · exact .inr rfl
  · exact .inl rfl

/-- WBLK raises no fatal failure but IOFault (rule R181). -/
theorem afterWblk_cause (s : State) :
    s.afterWblk.status.cause = s.status.cause ∨ s.afterWblk.status.cause = 1 := by
  rcases afterWblk_cases s with ⟨-, heq⟩ | ⟨-, -, heq⟩ | ⟨-, -, -, -, heq⟩ | ⟨-, heq⟩ <;> rw [heq]
  · exact .inl rfl
  · exact .inl rfl
  · exact .inl rfl
  · exact s.emitBlock_cause

/-- Settles O26: with admitted operands WBLK asks the sink, which a rejection does not. -/
theorem wblkOperandAdmission : Obligations.WblkOperandAdmission := by
  intro s hfault hconstructed hclosed
  rw [← State.operandsInadmissible_eq_true]
  refine ⟨fun hreject => ?rejected, exec_wblk_of_operands hfault hconstructed hclosed⟩
  case rejected =>
    by_contra hoperands
    have hadmitted : WblkAdmitted s :=
      ⟨hfault, hconstructed, hclosed, Bool.eq_false_iff.2 hoperands⟩
    have hemit : s.emitBlock = s.reject .errOperand :=
      Host.Outcome.next.inj ((exec_wblk_admitted hadmitted).symm.trans hreject)
    have hasked : s.sink.asked < (s.reject .errOperand).sink.asked := hemit ▸ s.emitBlock_asks
    exact lt_irrefl _ hasked

/-- Settles O27: each row is one way out of WBLK; in the fourth, the n requests before the one
answered ERR are the first n bytes of the record. -/
theorem wblkExceptions : Obligations.WblkExceptions := by
  intro s bad bytes
  have hbad : s.operandsInadmissible = true ↔ bad := State.operandsInadmissible_eq_true
  refine ⟨exec_wblk_of_fault, exec_wblk_of_not_open,
    fun hfault hconstructed hclosed hoperands =>
      exec_wblk_of_operands hfault hconstructed hclosed (hbad.2 hoperands),
    fun hfault hconstructed hclosed hoperands k hk hlast herr => ?ioFault, fun t hexec => ?cause⟩
  case ioFault =>
    obtain ⟨n, rfl⟩ : ∃ n, k = n + 1 := ⟨k - 1, by omega⟩
    have hadmitted : WblkAdmitted s :=
      ⟨hfault, hconstructed, hclosed, Bool.eq_false_iff.2 (mt hbad.1 hoperands)⟩
    have hrecord : s.record = bytes := s.record_eq
    refine ⟨(s.usePaths s.comp).acc, (s.usePaths s.comp).freeTick, ?_⟩
    rw [exec_wblk_admitted hadmitted, State.emitBlock_err (hrecord ▸ hlast) herr, hrecord]
    rfl
  case cause =>
    cases hexec
    exact afterWblk_cause s

end Sys2Proof.Machine
end

section
/-! PROOFS. WBLK after WBLK: a completed one leaves the operands, the buffers and FLAGS, and so the
next record, as they were (rules R179, R182 h). -/

namespace Sys2Proof.Machine

open Sys2Proof.Safety

theorem Sink.answerAt_sinkAfter (k : Sink) (reqs : List SinkRequest) (n j : Nat) :
    (sinkAfter k reqs n).answerAt j = k.answerAt (n + j) := by
  simp only [Sink.answerAt, sinkAfter, List.getElem?_drop, Nat.add_assoc]

theorem answersOk_sinkAfter {k : Sink} {m n : Nat} (h : AnswersOk k (m + n))
    (reqs : List SinkRequest) : AnswersOk (sinkAfter k reqs m) n := fun j hj => by
  rw [Sink.answerAt_sinkAfter]
  exact h (m + j) (Nat.add_lt_add_left hj m)

theorem exec_wblk_completed {s : State} (hadmitted : WblkAdmitted s)
    (hanswers : AnswersOk s.sink s.record.length) :
    ∃ t, exec .wblk s = .next t ∧ WblkAdmitted t ∧ t.record = s.record ∧
      t.sink = sinkAfter s.sink (s.record.map .data) s.record.length :=
  ⟨_, (exec_wblk_admitted hadmitted).trans (congrArg _ (State.emitBlock_ok hanswers)), hadmitted,
    rfl, rfl⟩

/-- Settles O31: the first WBLK leaves the second one admitted, with the same record to emit. -/
theorem repeatedWblkRepeatsRecord : Obligations.RepeatedWblkRepeatsRecord := by
  intro s hfault hconstructed hclosed hoperands hanswers
  rw [two_mul] at hanswers
  have hfirst : AnswersOk s.sink s.record.length := fun j hj => hanswers j (Nat.lt_add_left _ hj)
  obtain ⟨t, hst, hadmitted, hrecord, hsink⟩ :=
    exec_wblk_completed ⟨hfault, hconstructed, hclosed, hoperands⟩ hfirst
  have hsecond : AnswersOk t.sink t.record.length := by
    rw [hrecord, hsink]
    exact answersOk_sinkAfter hanswers _
  obtain ⟨u, htu, -, -, husink⟩ := exec_wblk_completed hadmitted hsecond
  refine ⟨t, u, s.record, blockRecord_length_ge .., hst, htu, ?_, ?_⟩
  · rw [hsink]
    rfl
  · rw [husink, hrecord]
    rfl

end Sys2Proof.Machine
end

section
/-! PROOFS. CLOSE where it does not run or complete its sequence (rules R202, R203): the rejections, the
first request that the sink answers ERR, and the CLOSE of a stream that is already Closed. -/

namespace Sys2Proof.Machine

open Sys2Proof.Safety

section
variable {s : State}

/-! ### Before the first request -/

theorem exec_close_of_fault (hfault : s.status.fault = true) :
    exec .close s = .next (s.reject .errFaulted) :=
  congrArg Host.Outcome.next (if_pos hfault)

theorem exec_close_of_unconstructed (hfault : s.status.fault = false)
    (hconstructed : s.status.constructed = false) : exec .close s = .next (s.reject .errState) :=
  congrArg Host.Outcome.next (by simp [State.afterClose, hfault, hconstructed])

theorem exec_close_of_closed (hfault : s.status.fault = false)
    (hconstructed : s.status.constructed = true) (hclosed : s.status.closed = true) :
    exec .close s = .next s.completeOk :=
  congrArg Host.Outcome.next (by simp [State.afterClose, hfault, hconstructed, hclosed])

/-! ### The six requests -/

theorem exec_close_admitted (h : CloseAdmitted s) : exec .close s = .next s.emitClose :=
  congrArg Host.Outcome.next (afterClose_admitted h)

theorem exec_close_err {n : Nat} (hadmitted : CloseAdmitted s) (hn : n < 6)
    (h : AnswersThen s.sink n .err) : exec .close s = .next
      ({ s with sink := sinkAfter s.sink (closeRequests.take n) (n + 1) } : State).raiseIoFault :=
  (exec_close_admitted hadmitted).trans (congrArg _ (State.transact_err hn h))

/-- The requests up to and with the n-th terminator byte. -/
theorem closeRequests_take_terminator : ∀ n ≤ 4,
    closeRequests.take (n + 1) = .flush :: List.replicate n (.data 0) := by
  decide

/-- CLOSED is the last thing the sequence does (rule R203). -/
theorem answersOk_of_emitClose_closed (hopen : s.status.closed = false)
    (hclosed : s.emitClose.status.closed = true) : AnswersOk s.sink 6 := by
  rcases s.emitClose_cases with ⟨hanswers, -⟩ | ⟨_, -, -, heq⟩ | ⟨_, -, -, heq⟩
  · exact hanswers
  · rw [heq] at hclosed
    exact absurd (hopen.symm.trans hclosed) Bool.false_ne_true
  · rw [heq] at hclosed
    exact absurd (hopen.symm.trans hclosed) Bool.false_ne_true

/-! ### A stream that is Closed -/

/-- In state Closed a command is refused for the state, or is the CLOSE that does nothing. -/
theorem exec_of_closed {i : Instr} {t : State} (hfault : s.status.fault = false)
    (hconstructed : s.status.constructed = true) (hclosed : s.status.closed = true)
    (hexec : exec i s = .next t) : t = s.reject .errState ∨ t = s.completeOk := by
  rcases exec_cases hexec with ⟨hfailed, -⟩ | ⟨-, heq, -⟩ | ⟨-, -, -, hopen, -⟩ |
    ⟨-, -, hblank, -⟩ | ⟨-, -, -, -, heq⟩ | ⟨-, ⟨-, hblank, -⟩, -⟩ | ⟨-, ⟨-, -, hopen, -⟩, -⟩ |
    ⟨-, ⟨-, -, hopen⟩, -⟩
  · simp [hfault] at hfailed
  · exact .inl heq
  · simp [hclosed] at hopen
  · simp [hconstructed] at hblank
  · exact .inr heq
  · simp [hconstructed] at hblank
  · simp [hclosed] at hopen
  · simp [hclosed] at hopen

end

/-- Settles O35: each row is one way out of CLOSE; the requests before the one answered ERR are the
first ones of the sequence. -/
theorem closeExceptions : Obligations.CloseExceptions := by
  intro s
  refine ⟨exec_close_of_fault, exec_close_of_unconstructed, fun hfault hconstructed hopen => ?_⟩
  have hadmitted : CloseAdmitted s := ⟨hfault, hconstructed, hopen⟩
  refine ⟨fun herr => ?flush, fun k hk hk4 herr => ?terminator, fun herr => ?sinkClose,
    fun t hexec hclosed => ?closed⟩
  case flush => exact exec_close_err hadmitted (by decide) herr
  case terminator =>
    obtain ⟨n, rfl⟩ : ∃ n, k = n + 1 := ⟨k - 1, by omega⟩
    rw [exec_close_err hadmitted (by omega) herr, closeRequests_take_terminator n (by omega)]
    rfl
  case sinkClose => exact exec_close_err hadmitted (by decide) herr
  case closed =>
    rw [exec_close_admitted hadmitted] at hexec
    cases hexec
    exact answersOk_of_emitClose_closed hopen hclosed

/-- Settles O34: both things a command can do in state Closed leave the sink and the lifecycle bits. -/
theorem repeatedCloseIsNoOp : Obligations.RepeatedCloseIsNoOp := by
  intro s hfault hconstructed hclosed
  refine ⟨exec_close_of_closed hfault hconstructed hclosed, fun i t hexec => ?_⟩
  rcases exec_of_closed hfault hconstructed hclosed hexec with rfl | rfl
  · exact ⟨lifecycle_eq_closed_iff.2 ⟨hfault, hclosed⟩, rfl⟩
  · exact ⟨lifecycle_eq_closed_iff.2 ⟨hfault, hclosed⟩, rfl⟩

end Sys2Proof.Machine
end

section
/-! PROOFS. The lifecycle transition table (rule R205): where each command ends in each lifecycle state
when the sink answers (rule R301). -/

namespace Sys2Proof.Safety

open Sys2Proof.Machine

/-! ### The cells of the table -/

/-- A cell in which a command runs: its completion code and the state it ends in. -/
def Goes (s : State) (i : Instr) (cc : Nibble) (l : Lifecycle) : Prop :=
  ∃ t, exec i s = .next t ∧ t.status.lastcc = cc ∧ t.lifecycle = l

/-- A cell in which a command is rejected: the lifecycle state stays, and only LASTCC and REJ change. -/
def Refused (s : State) (i : Instr) (cc : Nibble) : Prop :=
  Goes s i cc s.lifecycle ∧
    exec i s = .next { s with status := { s.status with rej := true, lastcc := cc } }

section
variable {s : State}

@[simp] theorem reject_lifecycle (s : State) (cc : CompletionCode) :
    (s.reject cc).lifecycle = s.lifecycle := rfl

theorem refused_of_exec {i : Instr} {cc : CompletionCode} (h : exec i s = .next (s.reject cc)) :
    Refused s i cc.code :=
  ⟨⟨_, h, rfl, reject_lifecycle s cc⟩, h⟩

theorem goes_failed_of_exec {i : Instr} {cc : CompletionCode} {u : State}
    (h : exec i s = .next (u.raiseFatal cc)) : Goes s i cc.code .failed :=
  ⟨_, h, rfl, raiseFatal_lifecycle u cc⟩

theorem lifecycle_eq_failed_iff : s.lifecycle = .failed ↔ s.status.fault = true := by
  unfold State.lifecycle Status.lifecycle
  cases s.status.fault <;> cases s.status.closed <;> cases s.status.constructed <;> decide

/-! ### The commands that run -/

/-- A sink that answers leaves an admitted command two ends: completion, and IOFault. -/
theorem transact_ends {reqs : List SinkRequest} (hanswers : SinkAnswers s.sink reqs.length)
    (onOk onWait : State → State) :
    (∃ k, s.transact reqs onOk onWait = (onOk { s with sink := k }).completeOk) ∨
    (∃ k, s.transact reqs onOk onWait = ({ s with sink := k } : State).raiseIoFault) := by
  rcases State.transact_cases s reqs onOk onWait with
    ⟨-, heq⟩ | ⟨_, -, -, heq⟩ | ⟨n, hn, ⟨-, hsilent⟩, -⟩
  · exact .inl ⟨_, heq⟩
  · exact .inr ⟨_, heq⟩
  · exact absurd hsilent (hanswers n hn)

/-- A command whose meaning is to send its requests, and whose own end has lifecycle state `l`. -/
theorem goes_of_transact {i : Instr} {u : State} {reqs : List SinkRequest}
    {onOk onWait : State → State} {l : Lifecycle}
    (hexec : exec i s = .next (u.transact reqs onOk onWait))
    (hanswers : SinkAnswers u.sink reqs.length)
    (hok : ∀ k, (onOk { u with sink := k }).completeOk.lifecycle = l) :
    Goes s i 0 l ∨ Goes s i 1 .failed := by
  rcases transact_ends hanswers onOk onWait with ⟨k, heq⟩ | ⟨k, heq⟩ <;> rw [heq] at hexec
  · exact .inl ⟨_, hexec, rfl, hok k⟩
  · exact .inr (goes_failed_of_exec (cc := .errIo) hexec)

theorem goes_init (hfault : s.status.fault = false) (hclosed : s.status.closed = false)
    (hconstructed : s.status.constructed = false) (hanswers : SinkAnswers s.sink 38) :
    Goes s .init 0 .opened ∨ Goes s .init 2 .failed ∨ Goes s .init 1 .failed := by
  by_cases hformat : s.algo ≠ s.params.algoLzo1x ∨ s.level ≠ s.params.levelLzo1x
  · exact .inr (.inl (goes_failed_of_exec (cc := .errFormat)
      (congrArg Host.Outcome.next (afterInit_of_format hfault hconstructed hformat))))
  · push Not at hformat
    have hadmitted : InitAdmitted s := ⟨hfault, hconstructed, hformat⟩
    have hcount : SinkAnswers s.latchFlags.sink s.latchFlags.initRequests.length := by
      rwa [State.initRequests_length]
    exact (goes_of_transact (exec_init_admitted hadmitted) hcount fun _ =>
      lifecycle_eq_opened_iff.2 ⟨hfault, hclosed, rfl⟩).imp_right .inr

theorem goes_wblk (hfault : s.status.fault = false) (hclosed : s.status.closed = false)
    (hconstructed : s.status.constructed = true) (hanswers : SinkAnswers s.sink s.record.length) :
    Goes s .wblk 0 .opened ∨ Refused s .wblk 5 ∨ Goes s .wblk 1 .failed := by
  cases hoperands : s.operandsInadmissible with
  | true =>
    exact .inr (.inl (refused_of_exec
      (exec_wblk_of_operands hfault hconstructed hclosed hoperands)))
  | false =>
    have hadmitted : WblkAdmitted s := ⟨hfault, hconstructed, hclosed, hoperands⟩
    have hcount : SinkAnswers (s.usePaths s.comp).sink (emitRequests s.record).length := by
      rwa [emitRequests_length]
    exact (goes_of_transact (exec_wblk_admitted hadmitted) hcount fun _ =>
      lifecycle_eq_opened_iff.2 ⟨hfault, hclosed, hconstructed⟩).imp_right .inr

theorem goes_close (hfault : s.status.fault = false) (hclosed : s.status.closed = false)
    (hconstructed : s.status.constructed = true) (hanswers : SinkAnswers s.sink 6) :
    Goes s .close 0 .closed ∨ Goes s .close 1 .failed :=
  goes_of_transact (exec_close_admitted ⟨hfault, hconstructed, hclosed⟩) hanswers fun _ =>
    lifecycle_eq_closed_iff.2 ⟨hfault, rfl⟩

/-! ### The commands that are rejected -/

theorem refused_init_of_constructed (hfault : s.status.fault = false)
    (hconstructed : s.status.constructed = true) : Refused s .init 3 :=
  refused_of_exec (cc := .errState)
    (congrArg Host.Outcome.next (afterInit_of_constructed hfault hconstructed))

theorem refused_wblk_of_not_open (hfault : s.status.fault = false)
    (hstate : s.status.constructed = false ∨ s.status.closed = true) : Refused s .wblk 3 :=
  refused_of_exec (exec_wblk_of_not_open hfault hstate)

theorem refused_close_of_unconstructed (hfault : s.status.fault = false)
    (hconstructed : s.status.constructed = false) : Refused s .close 3 :=
  refused_of_exec (exec_close_of_unconstructed hfault hconstructed)

theorem refused_of_fault (hfault : s.status.fault = true) (i : Instr) : Refused s i 4 := by
  refine refused_of_exec (cc := .errFaulted) ?_
  cases i with
  | init => exact congrArg Host.Outcome.next (afterInit_of_fault hfault)
  | wblk => exact exec_wblk_of_fault hfault
  | close => exact exec_close_of_fault hfault

end

/-- Settles O40, row by row. -/
theorem lifecycleTransitionTable : Obligations.LifecycleTransitionTable := by
  intro s _ hanswers hclosedConstructed goes refused
  refine ⟨fun hl => ?unconstructed, fun hl => ?opened, fun hl => ?closed, fun hl => ?failed,
    fun w e hdecode => ?reserved, fun es hpending => ?reset⟩
  case unconstructed =>
    obtain ⟨hfault, hclosed, hconstructed⟩ := lifecycle_eq_unconstructed_iff.1 hl
    exact ⟨goes_init hfault hclosed hconstructed (hanswers .init),
      refused_wblk_of_not_open hfault (.inl hconstructed),
      refused_close_of_unconstructed hfault hconstructed⟩
  case opened =>
    obtain ⟨hfault, hclosed, hconstructed⟩ := lifecycle_eq_opened_iff.1 hl
    exact ⟨refused_init_of_constructed hfault hconstructed,
      goes_wblk hfault hclosed hconstructed (hanswers .wblk),
      goes_close hfault hclosed hconstructed (hanswers .close)⟩
  case closed =>
    obtain ⟨hfault, hclosed⟩ := lifecycle_eq_closed_iff.1 hl
    have hconstructed := hclosedConstructed hclosed
    exact ⟨refused_init_of_constructed hfault hconstructed,
      refused_wblk_of_not_open hfault (.inr hclosed),
      exec_close_of_closed hfault hconstructed hclosed⟩
  case failed =>
    have hrefused := refused_of_fault (lifecycle_eq_failed_iff.1 hl)
    exact ⟨hrefused .init, hrefused .wblk, hrefused .close⟩
  case reserved =>
    exact ⟨_, issue_of_decode_error hdecode s, reject_lifecycle s .errOpcode, rfl, rfl⟩
  case reset => exact ⟨_, step_of_reset_pending hpending, State.reset_status_lifecycle⟩

end Sys2Proof.Safety
end

section
/-! PROOFS. How often a stream holds a FLUSH and a CLOSE (rules R202, R203). -/

namespace Sys2Proof.Safety

open Sys2Proof.Machine

variable {p : Params} {flags : Word} {trace : List SinkRequest}

theorem IsOpenStream.flush_notMem (h : IsOpenStream p flags trace) : .flush ∉ trace := by
  obtain ⟨mode, mtime, records, -, rfl⟩ := h
  simp

theorem IsCompleteStream.count_flush (h : IsCompleteStream p flags trace) :
    trace.count .flush = 1 := by
  obtain ⟨body, hbody, rfl⟩ := h
  rw [List.count_append, List.count_eq_zero.2 hbody.flush_notMem]
  decide

theorem IsCompleteStream.count_close (h : IsCompleteStream p flags trace) :
    trace.count .close = 1 := by
  obtain ⟨front, hfront, rfl⟩ := h.eq_append_close
  rw [List.count_append, List.count_eq_zero.2 hfront]
  decide

/-- What comes before the last request of a complete stream holds no CLOSE. -/
theorem IsUnfinished.close_notMem (h : IsUnfinished p trace) : .close ∉ trace := by
  obtain ⟨_, whole, -, hwhole, hprefix, hne⟩ := h
  obtain ⟨front, hfront, rfl⟩ := hwhole.eq_append_close
  have hbeginning : trace <+: front := (List.prefix_concat_iff.1 hprefix).resolve_left hne
  exact fun hmem => hfront (hbeginning.subset hmem)

theorem Invariant.count_flush_le {s : State} (h : Invariant s) :
    s.sink.accepted.count .flush ≤ 1 := by
  obtain ⟨_, whole, -, hwhole, hprefix, -⟩ := h.trace.prefix_stream
  exact hwhole.count_flush ▸ hprefix.sublist.count_le .flush

/-- Settles O51: every reachable trace is a beginning of a complete stream, the whole of it exactly
when CLOSED is set. -/
theorem atMostOneSinkClose : Obligations.AtMostOneSinkClose := by
  intro s t hs hreach
  have h := hreach.invariant hs
  refine ⟨h.count_flush_le, ?_⟩
  cases hclosed : t.status.closed with
  | true =>
    obtain ⟨-, hwhole⟩ := (closedMeansCompleteStream s t hs hreach).1 hclosed
    exact hwhole.count_close
  | false => exact List.count_eq_zero.2 (h.isUnfinished hclosed).close_notMem

end Sys2Proof.Safety
end

section
/-! PROOFS. The host port index by index (rules R221, R222, R226): where a write goes, what a read
returns, and that commands leave the operand registers. -/

namespace Sys2Proof.Machine

/-! ### Commands and the operand registers -/

/-- Settles O36, from the frame of all commands. -/
theorem commandsLeaveOperandRegisters : Obligations.CommandsLeaveOperandRegisters :=
  fun _ _ _ hexec j hj => congrArg (·[j]) (exec_commandFrame hexec).x

/-! ### HWRITE -/

theorem hwrite_of_reserved {i : Fin 16} (hi : 9 ≤ i.val) (v : Word) (s : State) :
    hwrite i v s = .next s := by
  have hoperand : ¬ i.val < 8 := by omega
  have hcmd : i.val ≠ 8 := by omega
  exact (dif_neg hoperand).trans (if_neg hcmd)

/-- Settles O6: an operand register, CMD with a command and with a reserved word, and the indices
that ignore a write. -/
theorem hostWriteRule : Obligations.HostWriteRule := by
  intro s i v es hwaiting hpending
  have hissue (hi : i.val = 8) : step s = issue v (s.withPending es) := by
    obtain rfl : i = 8 := Fin.ext hi
    exact step_of_cmd_pending hwaiting hpending
  refine ⟨fun hi => ?operand, fun hi c hdecode => ?command, fun hi e hdecode => ?refused,
    fun hi => ?ignored⟩
  case operand => exact step_of_hwrite_operand_pending hi hwaiting hpending
  case command => exact (hissue hi).trans (issue_of_decode_ok hdecode (s.withPending es))
  case refused => exact (hissue hi).trans (issue_of_decode_error hdecode (s.withPending es))
  case ignored =>
    exact (step_of_pending hwaiting hpending).trans (hwrite_of_reserved hi v (s.withPending es))

/-! ### HREAD -/

section
variable (s : State) {i : Fin 16}

theorem State.portRead_cmd (hi : i.val = 8) : s.portRead i = 0 := by
  simp [State.portRead, hi]

theorem State.portRead_status (hi : i.val = 9) : s.portRead i = s.status.word := by
  simp [State.portRead, hi]

theorem State.portRead_flags (hi : i.val = 10) : s.portRead i = s.flags := by
  simp [State.portRead, hi]

theorem State.portRead_reserved (hi : 11 ≤ i.val) : s.portRead i = 0 := by
  have hoperand : ¬ i.val < 8 := by omega
  have hstatus : i.val ≠ 9 := by omega
  have hflags : i.val ≠ 10 := by omega
  simp [State.portRead, hoperand, hstatus, hflags]

end

/-- Settles O7: the value is that of `portRead`, index by index. -/
theorem hostReadRule : Obligations.HostReadRule := fun s i _ hwaiting hpending =>
  ⟨s.portRead i, step_of_hread_pending hwaiting hpending, s.portRead_operand, s.portRead_cmd,
    s.portRead_status, s.portRead_flags, s.portRead_reserved⟩

end Sys2Proof.Machine
end

section
/-! PROOFS. How a command ends (60_exceptions.md): what makes it a rejection (rule R245), and what
an admitted command does with the sink's answers (rules R68, R243, R301), the same for all three. -/

namespace Sys2Proof.Safety

open Sys2Proof.Machine

/-- The command is not one for the lifecycle state (rules R152, R172, R201). -/
def WrongState (i : Instr) (s : State) : Prop :=
  (i = .init ∧ s.status.constructed = true) ∨
  (i = .wblk ∧ (s.status.constructed = false ∨ s.status.closed = true)) ∨
  (i = .close ∧ s.status.constructed = false)

/-- What rejects a command, and with which code (rules R245, R249). -/
inductive Rejection (i : Instr) (s : State) : CompletionCode → Prop where
  | faulted (hfault : s.status.fault = true) : Rejection i s .errFaulted
  | state (hfault : s.status.fault = false) (hstate : WrongState i s) : Rejection i s .errState
  | operand (hwblk : i = .wblk) (hfault : s.status.fault = false)
      (hconstructed : s.status.constructed = true) (hclosed : s.status.closed = false)
      (hoperands : s.operandsInadmissible = true) : Rejection i s .errOperand

/-- The command gets as far as its requests. -/
def Admitted : Instr → State → Prop
  | .init => InitAdmitted
  | .wblk => WblkAdmitted
  | .close => CloseAdmitted

/-- A command all of whose requests were answered OK. -/
structure CompletesOk (count : Nat) (s t : State) : Prop where
  answers : AnswersOk s.sink count
  lastcc : t.status.lastcc = 0
  fault : t.status.fault = s.status.fault
  waiting : t.waiting = s.waiting
  answerAt : ∀ j, t.sink.answerAt j = s.sink.answerAt (count + j)

/-- A command whose request number `n`, counted from 0, was answered ERR (rule R243). -/
structure FailsAt (n : Nat) (s t : State) : Prop where
  answers : AnswersThen s.sink n .err
  status : t.status = { s.status with fault := true, cause := 1, lastcc := 1 }
  waiting : t.waiting = s.waiting
  answerAt : ∀ j, t.sink.answerAt j = s.sink.answerAt (n + 1 + j)

theorem FailsAt.lastcc {n : Nat} {s t : State} (h : FailsAt n s t) : t.status.lastcc = 1 :=
  congrArg Status.lastcc h.status

/-- The three ends of a command that makes up to `count` requests: completion, IOFault, waiting. -/
def EmissionEnds (count : Nat) (s t : State) : Prop :=
  CompletesOk count s t ∨ (∃ n < count, FailsAt n s t) ∨
    ∃ n < count, AnswersThen s.sink n .silent ∧ t.waiting = true

/-! ### The first request that is not answered OK decides -/

theorem AnswersThen.unique {k : Sink} {m n : Nat} {a b : SinkAnswer} (hm : AnswersThen k m a)
    (hn : AnswersThen k n b) (ha : a ≠ .ok) (hb : b ≠ .ok) : m = n ∧ a = b := by
  have hle : m ≤ n := le_of_not_gt fun hlt => hb (hn.2.symm.trans (hm.1 n hlt))
  have hge : n ≤ m := le_of_not_gt fun hlt => ha (hm.2.symm.trans (hn.1 m hlt))
  obtain rfl := le_antisymm hle hge
  exact ⟨rfl, hm.2.symm.trans hn.2⟩

section
variable {count n : Nat} {s t : State}

theorem EmissionEnds.completesOk (h : EmissionEnds count s t) (hanswers : AnswersOk s.sink count) :
    CompletesOk count s t := by
  rcases h with hok | ⟨n, hn, hfails⟩ | ⟨n, hn, ⟨-, hsilent⟩, -⟩
  · exact hok
  · exact absurd (hfails.answers.2.symm.trans (hanswers n hn)) (by decide)
  · exact absurd (hsilent.symm.trans (hanswers n hn)) (by decide)

theorem EmissionEnds.failsAt (h : EmissionEnds count s t) (hn : n < count)
    (herr : AnswersThen s.sink n .err) : FailsAt n s t := by
  rcases h with hok | ⟨m, -, hfails⟩ | ⟨m, -, hsilent, -⟩
  · exact absurd (herr.2.symm.trans (hok.answers n hn)) (by decide)
  · obtain ⟨rfl, -⟩ := hfails.answers.unique herr (by decide) (by decide)
    exact hfails
  · exact absurd (hsilent.unique herr (by decide) (by decide)).2 (by decide)

/-- A command that has ended left nothing waiting. -/
theorem EmissionEnds.of_done (h : EmissionEnds count s t) (hdone : t.waiting = false) :
    CompletesOk count s t ∨ ∃ n < count, FailsAt n s t :=
  h.imp_right fun h => h.resolve_right fun ⟨_, _, _, hwaiting⟩ =>
    absurd (hwaiting.symm.trans hdone) (by decide)

end

/-! ### The admitted commands -/

/-- `transact` ends so from any state `u` that has the sink, STATUS and no more waiting than `s`. -/
theorem transact_emissionEnds {s u : State} {reqs : List SinkRequest} {onOk onWait : State → State}
    {count : Nat} (hcount : reqs.length = count)
    (hsink : u.sink = s.sink) (hstatus : u.status = s.status) (hwaiting : u.waiting = s.waiting)
    (hokSink : ∀ v, (onOk v).sink = v.sink)
    (hokFault : ∀ v, (onOk v).status.fault = v.status.fault)
    (hokWaiting : ∀ v, (onOk v).waiting = v.waiting) :
    EmissionEnds count s (u.transact reqs onOk onWait) := by
  subst hcount
  rcases State.transact_cases u reqs onOk onWait with
    ⟨hanswers, heq⟩ | ⟨n, hn, herr, heq⟩ | ⟨n, hn, hsilent, heq⟩ <;> rw [heq]
  · refine .inl ⟨hsink ▸ hanswers, rfl, ?_, ?_, fun j => ?_⟩
    · rw [← hstatus]
      exact hokFault _
    · rw [← hwaiting]
      exact hokWaiting _
    · rw [State.completeOk_sink, hokSink, Sink.answerAt_sinkAfter, hsink]
  · refine .inr (.inl ⟨n, hn, hsink ▸ herr, ?_, hwaiting, fun j => ?_⟩)
    · rw [← hstatus]
      rfl
    · rw [State.raiseIoFault_eq, State.raiseFatal_sink, Sink.answerAt_sinkAfter, hsink]
  · exact .inr (.inr ⟨n, hn, hsink ▸ hsilent, rfl⟩)

theorem exec_admitted {i : Instr} {s t : State} (hadmitted : Admitted i s)
    (hexec : exec i s = .next t) : EmissionEnds (requestCount i s) s t := by
  cases i with
  | init =>
    obtain rfl := Host.Outcome.next.inj ((exec_init_admitted hadmitted).symm.trans hexec)
    exact transact_emissionEnds (u := s.latchFlags) (State.initRequests_length _)
      rfl rfl rfl (fun _ => rfl) (fun _ => rfl) (fun _ => rfl)
  | wblk =>
    obtain rfl := Host.Outcome.next.inj ((exec_wblk_admitted hadmitted).symm.trans hexec)
    exact transact_emissionEnds (u := s.usePaths s.comp) (emitRequests_length _)
      rfl rfl rfl (fun _ => rfl) (fun _ => rfl) (fun _ => rfl)
  | close =>
    obtain rfl := Host.Outcome.next.inj ((exec_close_admitted hadmitted).symm.trans hexec)
    exact transact_emissionEnds (u := s) closeRequests_length
      rfl rfl rfl (fun _ => rfl) (fun _ => rfl) (fun _ => rfl)

/-! ### All commands -/

/-- Every end of a command: a rejection, INIT's FormatFault, the CLOSE in state Closed, or one of
the ends of an admitted command. -/
theorem exec_ends {i : Instr} {s t : State} (h : exec i s = .next t) :
    (∃ cc, Rejection i s cc ∧ t = s.reject cc) ∨ (i = .init ∧ t = s.raiseFormatFault) ∨
      (i = .close ∧ t = s.completeOk) ∨ EmissionEnds (requestCount i s) s t := by
  have hadmitted (ha : Admitted i s) := exec_admitted ha h
  rcases exec_cases h with ⟨hfault, heq⟩ | ⟨hfault, heq, hstate⟩ |
    ⟨hi, hfault, hconstructed, hclosed, hoperands, heq⟩ | ⟨hi, -, -, -, heq⟩ |
    ⟨hi, -, -, -, heq⟩ | ⟨rfl, ha, -⟩ | ⟨rfl, ha, -⟩ | ⟨rfl, ha, -⟩
  · exact .inl ⟨_, .faulted hfault, heq⟩
  · exact .inl ⟨_, .state hfault hstate, heq⟩
  · exact .inl ⟨_, .operand hi hfault hconstructed hclosed hoperands, heq⟩
  · exact .inr (.inl ⟨hi, heq⟩)
  · exact .inr (.inr (.inl ⟨hi, heq⟩))
  · exact .inr (.inr (.inr (hadmitted ha)))
  · exact .inr (.inr (.inr (hadmitted ha)))
  · exact .inr (.inr (.inr (hadmitted ha)))

/-- Rule R250: every command answers a next state. -/
theorem exists_exec_eq_next (i : Instr) (s : State) : ∃ t, exec i s = .next t := by
  cases i with
  | init => exact ⟨_, rfl⟩
  | wblk => exact ⟨_, rfl⟩
  | close => exact ⟨_, rfl⟩

/-- The codes of the rejections of a command are those of rule R245. -/
theorem Rejection.code_bounds {i : Instr} {s : State} {cc : CompletionCode}
    (h : Rejection i s cc) : 3 ≤ cc.code.toNat ∧ cc.code.toNat ≤ 5 := by
  cases h with
  | faulted => decide
  | state => decide
  | operand => decide

end Sys2Proof.Safety
end

section
/-! PROOFS. The codes a command completes with, and what it leaves as it was (rules R245, R258,
R301). -/

namespace Sys2Proof.Safety

open Sys2Proof.Machine

/-- Settles O38: a rejection is `State.reject`, and its codes keep it apart from the other ends of a
command. -/
theorem rejectionChangesOnlyLastccAndRej : Obligations.RejectionChangesOnlyLastccAndRej := by
  refine ⟨fun i s t hexec hdone hcode => ?rejected, fun i s t hexec hdone hcode => ?otherwise,
    fun w s e hdecode => issue_of_decode_error hdecode s⟩
  case rejected =>
    have hlow {cc : Nibble} (hcc : t.status.lastcc = cc) (hlt : cc.toNat < 3) :
        t = { s with status := { s.status with rej := true, lastcc := t.status.lastcc } } :=
      absurd (hcc ▸ hcode) (Nat.not_le.2 hlt)
    rcases exec_ends hexec with ⟨cc, -, rfl⟩ | ⟨-, rfl⟩ | ⟨-, rfl⟩ | hends
    · rfl
    · exact hlow (cc := 2) rfl (by decide)
    · exact hlow (cc := 0) rfl (by decide)
    · rcases hends.of_done hdone with hok | ⟨n, -, hfails⟩
      · exact hlow hok.lastcc (by decide)
      · exact hlow hfails.lastcc (by decide)
  case otherwise =>
    rcases exec_ends hexec with ⟨cc, hrejection, rfl⟩ | ⟨rfl, rfl⟩ | ⟨-, rfl⟩ | hends
    · exact absurd hrejection.code_bounds.1 (Nat.not_le.2 hcode)
    · exact .inr (.inr ⟨rfl, rfl, rfl, rfl, rfl⟩)
    · exact .inl ⟨rfl, rfl⟩
    · rcases hends.of_done hdone with hok | ⟨n, -, hfails⟩
      · exact .inl ⟨hok.lastcc, hok.fault⟩
      · rw [hfails.status]
        exact .inr (.inl ⟨rfl, rfl, rfl⟩)

/-- Settles O46: a sink that answers leaves an admitted command completion and IOFault, and every
other end uses no answer at all. -/
theorem commandsCompleteIfSinkAnswers : Obligations.CommandsCompleteIfSinkAnswers := by
  intro i s hidle hanswers
  obtain ⟨t, hexec⟩ := exists_exec_eq_next i s
  have hunasked (hsink : t.sink = s.sink) :
      ∃ n ≤ requestCount i s, ∀ j, t.sink.answerAt j = s.sink.answerAt (n + j) :=
    ⟨0, Nat.zero_le _, fun j => by rw [hsink, Nat.zero_add]⟩
  have hcode {cc : Nibble} (hlastcc : t.status.lastcc = cc) (hle : cc.toNat ≤ 5) :
      t.status.lastcc.toNat ≤ 5 := hlastcc ▸ hle
  refine ⟨t, hexec, ?_⟩
  rcases exec_ends hexec with ⟨cc, hrejection, rfl⟩ | ⟨-, rfl⟩ | ⟨-, rfl⟩ |
    hok | ⟨n, hn, hfails⟩ | ⟨n, hn, ⟨-, hsilent⟩, -⟩
  · exact ⟨hidle, hrejection.code_bounds.2, hunasked rfl⟩
  · exact ⟨hidle, hcode (cc := 2) rfl (by decide), hunasked rfl⟩
  · exact ⟨hidle, hcode (cc := 0) rfl (by decide), hunasked rfl⟩
  · exact ⟨hok.waiting.trans hidle, hcode hok.lastcc (by decide), _, le_rfl, hok.answerAt⟩
  · exact ⟨hfails.waiting.trans hidle, hcode hfails.lastcc (by decide), n + 1, hn,
      hfails.answerAt⟩
  · exact absurd hsilent (hanswers n hn)

/-- Settles O42: FAULT refuses every command, and the port does not look at it. -/
theorem failedStateRejectsEveryCommand : Obligations.FailedStateRejectsEveryCommand := by
  intro s hfault
  refine ⟨fun i => ?command, fun w e hdecode => ?reserved, fun i v hi => ?write, fun i => ?read⟩
  case command =>
    obtain ⟨-, hexec⟩ := refused_of_fault hfault i
    exact hexec
  case reserved => exact issue_of_decode_error hdecode s
  case write => exact dif_pos hi
  case read => exact ⟨s.portRead i, rfl, s.portRead_status, s.portRead_flags⟩

end Sys2Proof.Safety
end

section
/-! PROOFS. Of several conditions for one CMD write the first is reported (rule R249): one lemma per
condition, for a command that the conditions before it let pass. -/

namespace Sys2Proof.Safety

open Sys2Proof.Machine

section
variable {i : Instr} {s t : State}

theorem Refused.lastcc_eq {cc : Nibble} (h : Refused s i cc) (hexec : exec i s = .next t) :
    t.status.lastcc = cc := by
  obtain ⟨-, hrefused⟩ := h
  obtain rfl := Host.Outcome.next.inj (hrefused.symm.trans hexec)
  rfl

theorem refused_of_wrongState (hfault : s.status.fault = false) (h : WrongState i s) :
    Refused s i 3 := by
  rcases h with ⟨rfl, hconstructed⟩ | ⟨rfl, hstate⟩ | ⟨rfl, hconstructed⟩
  · exact refused_init_of_constructed hfault hconstructed
  · exact refused_wblk_of_not_open hfault hstate
  · exact refused_close_of_unconstructed hfault hconstructed

theorem wblk_open_of_not_wrongState (h : ¬ WrongState .wblk s) :
    s.status.constructed = true ∧ s.status.closed = false := by
  simpa [WrongState] using h

theorem init_unconstructed_of_not_wrongState (h : ¬ WrongState .init s) :
    s.status.constructed = false := by
  simpa [WrongState] using h

theorem close_constructed_of_not_wrongState (h : ¬ WrongState .close s) :
    s.status.constructed = true := by
  simpa [WrongState] using h

theorem refused_of_operands (hfault : s.status.fault = false) (hstate : ¬ WrongState .wblk s)
    (hoperands : s.operandsInadmissible = true) : Refused s .wblk 5 := by
  obtain ⟨hconstructed, hclosed⟩ := wblk_open_of_not_wrongState hstate
  exact refused_of_exec (exec_wblk_of_operands hfault hconstructed hclosed hoperands)

theorem exec_init_of_format (hfault : s.status.fault = false) (hstate : ¬ WrongState .init s)
    (hformat : s.algo ≠ s.params.algoLzo1x ∨ s.level ≠ s.params.levelLzo1x) :
    exec .init s = .next s.raiseFormatFault :=
  congrArg Host.Outcome.next
    (afterInit_of_format hfault (init_unconstructed_of_not_wrongState hstate) hformat)

theorem exec_close_again (hfault : s.status.fault = false) (hstate : ¬ WrongState .close s)
    (hclosed : s.status.closed = true) : exec .close s = .next s.completeOk :=
  exec_close_of_closed hfault (close_constructed_of_not_wrongState hstate) hclosed

/-- A command that no condition stops makes its requests. -/
theorem admitted_of_no_condition (hfault : s.status.fault = false) (hstate : ¬ WrongState i s)
    (hoperands : ¬ (i = .wblk ∧ s.operandsInadmissible = true))
    (hformat : ¬ (i = .init ∧ (s.algo ≠ s.params.algoLzo1x ∨ s.level ≠ s.params.levelLzo1x)))
    (hclosed : ¬ (i = .close ∧ s.status.closed = true)) : Admitted i s := by
  cases i with
  | init =>
    have hlegal : s.algo = s.params.algoLzo1x ∧ s.level = s.params.levelLzo1x := by
      simpa [not_or] using hformat
    exact ⟨hfault, init_unconstructed_of_not_wrongState hstate, hlegal⟩
  | wblk =>
    obtain ⟨hconstructed, hopen⟩ := wblk_open_of_not_wrongState hstate
    exact ⟨hfault, hconstructed, hopen, by simpa using hoperands⟩
  | close => exact ⟨hfault, close_constructed_of_not_wrongState hstate, by simpa using hclosed⟩

end

theorem encode_eq_iff {i j : Instr} : encode i = encode j ↔ i = j := by
  refine ⟨fun h => ?_, congrArg encode⟩
  have hdecode : decode (encode i) = .ok j := h ▸ decode_encode j
  exact Except.ok.inj ((decode_encode i).symm.trans hdecode)

/-- Settles O41: each condition has its lemma, and with none of them the first request that is not
answered OK decides. -/
theorem firstConditionIsReported : Obligations.FirstConditionIsReported := by
  intro w s t hissue _ wrongState
  refine ⟨fun hnone => ?reserved, fun hword => ?command⟩
  case reserved =>
    obtain ⟨-, -, -, hrefused⟩ := wordIsCommandIffInOpcodeMap w
    obtain ⟨e, hdecode⟩ := hrefused.2 hnone
    obtain rfl := Host.Outcome.next.inj ((issue_of_decode_error hdecode s).symm.trans hissue)
    rfl
  case command =>
    obtain ⟨i, rfl⟩ : ∃ i, w = encode i := by
      rcases hword with rfl | rfl | rfl
      exacts [⟨.init, rfl⟩, ⟨.wblk, rfl⟩, ⟨.close, rfl⟩]
    have hexec : exec i s = .next t := (issue_of_decode_ok (decode_encode i) s).symm.trans hissue
    have hinit : encode i = 1 ↔ i = .init := encode_eq_iff (j := .init)
    have hwblk : encode i = 2 ↔ i = .wblk := encode_eq_iff (j := .wblk)
    have hclose : encode i = 3 ↔ i = .close := encode_eq_iff (j := .close)
    have hwrong : wrongState ↔ WrongState i s :=
      or_congr (and_congr_left' hinit)
        (or_congr (and_congr_left' hwblk) (and_congr_left' hclose))
    rw [hinit, hwblk, hclose, hwrong]
    refine ⟨fun hfault => (refused_of_fault hfault i).lastcc_eq hexec,
      fun hfault hstate => (refused_of_wrongState hfault hstate).lastcc_eq hexec,
      fun hfault hstate => ⟨?operands, ?format, ?again, ?requests⟩⟩
    case operands =>
      rintro rfl hoperands
      exact (refused_of_operands hfault hstate hoperands).lastcc_eq hexec
    case format =>
      rintro rfl hformat
      obtain rfl :=
        Host.Outcome.next.inj ((exec_init_of_format hfault hstate hformat).symm.trans hexec)
      rfl
    case again =>
      rintro rfl hclosed
      obtain rfl :=
        Host.Outcome.next.inj ((exec_close_again hfault hstate hclosed).symm.trans hexec)
      rfl
    case requests =>
      intro hoperands hformat hclosed j hdecode
      obtain rfl := Except.ok.inj ((decode_encode i).symm.trans hdecode)
      have hends := exec_admitted
        (admitted_of_no_condition hfault hstate hoperands hformat hclosed) hexec
      exact ⟨fun hanswers => (hends.completesOk hanswers).lastcc,
        fun n hn herr => (hends.failsAt hn herr).lastcc⟩

end Sys2Proof.Safety
end

section
/-! PROOFS. Which completion codes each command has (rule R246): the list for every state, and for
each code a state between two commands in which the command completes with it. -/

namespace Sys2Proof.Safety

open Sys2Proof.Machine

/-- Rule R246's completion codes of each command. -/
def completionCodes : Instr → List Nibble
  | .init => [0, 1, 2, 3, 4]
  | .wblk => [0, 1, 3, 4, 5]
  | .close => [0, 1, 3, 4]

/-- The lifecycle states in which a command is rejected with ERR_STATE (rule R246, in brackets). -/
def stateErrorLifecycles : Instr → List Lifecycle
  | .init => [.opened, .closed]
  | .wblk => [.unconstructed, .closed]
  | .close => [.unconstructed]

/-! ### No other code, and ERR_STATE from no other state -/

theorem mem_completionCodes_of_common (i : Instr) :
    ∀ cc ∈ ([0, 1, 3, 4] : List Nibble), cc ∈ completionCodes i := by
  cases i with
  | init => decide
  | wblk => decide
  | close => decide

theorem failed_notMem_stateErrorLifecycles (i : Instr) : .failed ∉ stateErrorLifecycles i := by
  cases i with
  | init => decide
  | wblk => decide
  | close => decide

section
variable {i : Instr} {s t : State}

/-- The three lifecycle states without FAULT, by the STATUS bits (rule R31). -/
theorem lifecycle_cases_of_healthy (hfault : s.status.fault = false)
    (hclosed : s.status.closed = true → s.status.constructed = true) :
    (s.lifecycle = .unconstructed ∧ s.status.constructed = false ∧ s.status.closed = false) ∨
    (s.lifecycle = .opened ∧ s.status.constructed = true ∧ s.status.closed = false) ∨
    (s.lifecycle = .closed ∧ s.status.constructed = true ∧ s.status.closed = true) := by
  cases hc : s.status.closed with
  | true => exact .inr (.inr ⟨lifecycle_eq_closed_iff.2 ⟨hfault, hc⟩, hclosed hc, rfl⟩)
  | false =>
    cases hk : s.status.constructed with
    | true => exact .inr (.inl ⟨lifecycle_eq_opened_iff.2 ⟨hfault, hc, hk⟩, rfl, rfl⟩)
    | false => exact .inl ⟨lifecycle_eq_unconstructed_iff.2 ⟨hfault, hc, hk⟩, rfl, rfl⟩

theorem wrongState_iff_lifecycle (hfault : s.status.fault = false)
    (hclosed : s.status.closed = true → s.status.constructed = true) :
    WrongState i s ↔ s.lifecycle ∈ stateErrorLifecycles i := by
  rcases lifecycle_cases_of_healthy hfault hclosed with
    ⟨hl, hconstructed, hclosed⟩ | ⟨hl, hconstructed, hclosed⟩ | ⟨hl, hconstructed, hclosed⟩
  · cases i <;> simp [WrongState, stateErrorLifecycles, hl, hconstructed, hclosed]
  · cases i <;> simp [WrongState, stateErrorLifecycles, hl, hconstructed, hclosed]
  · cases i <;> simp [WrongState, stateErrorLifecycles, hl, hconstructed, hclosed]

theorem lastcc_mem_completionCodes (hexec : exec i s = .next t) (hdone : t.waiting = false) :
    t.status.lastcc ∈ completionCodes i := by
  have hcommon := mem_completionCodes_of_common i
  rcases exec_ends hexec with ⟨cc, hrejection, rfl⟩ | ⟨rfl, rfl⟩ | ⟨-, rfl⟩ | hends
  · cases hrejection with
    | faulted => exact hcommon 4 (by decide)
    | state => exact hcommon 3 (by decide)
    | operand hwblk =>
      subst hwblk
      exact List.mem_of_elem_eq_true rfl
  · exact List.mem_of_elem_eq_true rfl
  · exact hcommon 0 (by decide)
  · rcases hends.of_done hdone with hok | ⟨n, -, hfails⟩
    · exact hok.lastcc ▸ hcommon 0 (by decide)
    · exact hfails.lastcc ▸ hcommon 1 (by decide)

theorem wrongState_of_lastcc (hexec : exec i s = .next t) (hdone : t.waiting = false)
    (hcode : t.status.lastcc = 3) : s.status.fault = false ∧ WrongState i s := by
  have hother {cc : Nibble} (hlastcc : t.status.lastcc = cc) (hne : cc ≠ 3) :
      s.status.fault = false ∧ WrongState i s := absurd (hlastcc.symm.trans hcode) hne
  rcases exec_ends hexec with ⟨cc, hrejection, rfl⟩ | ⟨-, rfl⟩ | ⟨-, rfl⟩ | hends
  · cases hrejection with
    | faulted => exact hother (cc := 4) rfl (by decide)
    | state hfault hstate => exact ⟨hfault, hstate⟩
    | operand => exact hother (cc := 5) rfl (by decide)
  · exact hother (cc := 2) rfl (by decide)
  · exact hother (cc := 0) rfl (by decide)
  · rcases hends.of_done hdone with hok | ⟨n, -, hfails⟩
    · exact hother hok.lastcc (by decide)
    · exact hother hfails.lastcc (by decide)

end

/-! ### States between two commands -/

/-- The state after reset, with 0 as the legal level and a legal algorithm to choose: CFG_ALGO is 0
at reset, so it is legal where `algo` is 0. -/
def blank (algo : Byte) : State :=
  { State.reset with params := { Config.params with algoLzo1x := algo, levelLzo1x := 0 } }

/-- The state with other answers to come from the sink. -/
def withScript (s : State) (script : List SinkAnswer) : State :=
  { s with sink := { s.sink with script := script } }

theorem blank_justReset (algo : Byte) : JustReset (blank algo) := by
  obtain ⟨hx, hword, hflags, hacc, hhacc, hwaiting, haccepted, hparams, hbuffers⟩ := justReset_reset
  exact ⟨hx, hword, hflags, hacc, hhacc, hwaiting, haccepted, hparams, { hbuffers with }⟩

theorem blank_invariant (algo : Byte) : Invariant (blank algo) := (blank_justReset algo).invariant

theorem blank_initAdmitted : InitAdmitted (blank 0) := ⟨rfl, rfl, rfl, rfl⟩

theorem exec_init_blank_format : exec .init (blank 1) = .next (blank 1).raiseFormatFault :=
  congrArg Host.Outcome.next (afterInit_of_format rfl rfl (.inl (by decide)))

/-- The invariant is about no answer that is still to come. -/
theorem Invariant.withScript {s : State} (h : Invariant s) (script : List SinkAnswer) :
    Invariant (withScript s script) where
  params_wf := h.params_wf
  registers := { h.registers with }
  accumulators := { h.accumulators with }
  buffers := { h.buffers with }
  trace := { h.trace with }

theorem answersOk_withScript (s : State) (n : Nat) :
    AnswersOk (withScript s (List.replicate n .ok)).sink n := fun j hj => by
  simp [withScript, Sink.answerAt, hj]

theorem answersThen_withScript_err (s : State) : AnswersThen (withScript s [.err]).sink 0 .err :=
  ⟨fun j hj => absurd hj j.not_lt_zero, rfl⟩

theorem admitted_withScript {i : Instr} {s : State} (h : Admitted i s) (script : List SinkAnswer) :
    Admitted i (withScript s script) := by
  cases i with
  | init => exact h
  | wblk => exact h
  | close => exact h

theorem requestCount_withScript (i : Instr) (s : State) (script : List SinkAnswer) :
    requestCount i (withScript s script) = requestCount i s := by
  cases i with
  | init => rfl
  | wblk => rfl
  | close => rfl

theorem requestCount_pos (i : Instr) (s : State) : 0 < requestCount i s := by
  cases i with
  | init => exact Nat.succ_pos _
  | wblk => exact Nat.lt_of_lt_of_le (Nat.succ_pos 7) (blockRecord_length_ge ..)
  | close => exact Nat.succ_pos _

theorem exec_init_completed {s : State} (hanswers : AnswersOk s.sink 38)
    (hadmitted : InitAdmitted s) : ∃ t, exec .init s = .next t ∧ t.waiting = s.waiting ∧
      t.status = { s.status with constructed := true, lastcc := 0 } :=
  ⟨_, (exec_init_admitted hadmitted).trans
    (congrArg _ (State.emitHeader_ok (s := s.latchFlags) hanswers)), rfl, rfl⟩

theorem exec_close_completed {s : State} (hanswers : AnswersOk s.sink 6)
    (hadmitted : CloseAdmitted s) : ∃ t, exec .close s = .next t ∧ t.waiting = s.waiting ∧
      t.status = { s.status with closed := true, lastcc := 0 } :=
  ⟨_, (exec_close_admitted hadmitted).trans (congrArg _ (State.emitClose_ok hanswers)), rfl, rfl⟩

/-- An INIT whose sink answers OK opens the stream. -/
theorem exists_opened : ∃ s, Invariant s ∧ s.waiting = false ∧ s.lifecycle = .opened := by
  obtain ⟨t, hexec, hwaiting, hstatus⟩ :=
    exec_init_completed (answersOk_withScript (blank 0) 38) blank_initAdmitted
  refine ⟨t, ((blank_invariant 0).withScript (List.replicate 38 .ok)).exec rfl hexec, hwaiting, ?_⟩
  rw [lifecycle_eq_opened_iff, hstatus]
  exact ⟨rfl, rfl, rfl⟩

/-- A CLOSE whose sink answers OK closes it. -/
theorem exists_closed : ∃ s, Invariant s ∧ s.waiting = false ∧ s.lifecycle = .closed := by
  obtain ⟨s, h, hidle, hl⟩ := exists_opened
  obtain ⟨hfault, hclosed, hconstructed⟩ := lifecycle_eq_opened_iff.1 hl
  obtain ⟨t, hexec, hwaiting, hstatus⟩ :=
    exec_close_completed (answersOk_withScript s 6) ⟨hfault, hconstructed, hclosed⟩
  refine ⟨t, (h.withScript (List.replicate 6 .ok)).exec hidle hexec, hwaiting.trans hidle, ?_⟩
  rw [lifecycle_eq_closed_iff, hstatus]
  exact ⟨hfault, rfl⟩

/-- Every lifecycle state is that of some state between two commands. -/
theorem exists_of_lifecycle (l : Lifecycle) :
    ∃ s, Invariant s ∧ s.waiting = false ∧ s.lifecycle = l := by
  cases l with
  | unconstructed => exact ⟨blank 0, blank_invariant 0, rfl, rfl⟩
  | opened => exact exists_opened
  | closed => exact exists_closed
  | failed => exact ⟨_, (blank_invariant 1).exec rfl exec_init_blank_format, rfl, rfl⟩

theorem exists_opened_of_operands (x : Vector Word 8) :
    ∃ s, Invariant s ∧ s.waiting = false ∧ s.lifecycle = .opened ∧ s.x = x := by
  obtain ⟨s, h, hwaiting, hl⟩ := exists_of_lifecycle .opened
  exact ⟨_, h.withPort x s.host, hwaiting, hl, rfl⟩

theorem exists_admitted (i : Instr) : ∃ s, Invariant s ∧ s.waiting = false ∧ Admitted i s := by
  obtain ⟨s, h, hwaiting, hl, hx⟩ := exists_opened_of_operands (Vector.replicate 8 0)
  obtain ⟨hfault, hclosed, hconstructed⟩ := lifecycle_eq_opened_iff.1 hl
  cases i with
  | init => exact ⟨blank 0, blank_invariant 0, rfl, blank_initAdmitted⟩
  | wblk =>
    have hoperands : s.operandsInadmissible = false := by
      rw [← Bool.not_eq_true, State.operandsInadmissible_eq_true, hx]
      simp
    exact ⟨s, h, hwaiting, hfault, hconstructed, hclosed, hoperands⟩
  | close => exact ⟨s, h, hwaiting, hfault, hconstructed, hclosed⟩

/-! ### Every code is attained -/

/-- The command completes with the code in some state between two commands. -/
def Attains (i : Instr) (cc : Nibble) : Prop :=
  ∃ s t : State, Invariant s ∧ s.waiting = false ∧ exec i s = .next t ∧ t.waiting = false ∧
    t.status.lastcc = cc

theorem Refused.attains {i : Instr} {s : State} {cc : Nibble} (hrefused : Refused s i cc)
    (h : Invariant s) (hwaiting : s.waiting = false) : Attains i cc := by
  obtain ⟨-, hexec⟩ := hrefused
  exact ⟨s, _, h, hwaiting, hexec, hwaiting, rfl⟩

theorem attains_ok (i : Instr) : Attains i 0 := by
  obtain ⟨s, h, hwaiting, hadmitted⟩ := exists_admitted i
  obtain ⟨t, hexec⟩ :=
    exists_exec_eq_next i (withScript s (List.replicate (requestCount i s) .ok))
  have hends := exec_admitted (admitted_withScript hadmitted _) hexec
  rw [requestCount_withScript] at hends
  have hok := hends.completesOk (answersOk_withScript s _)
  exact ⟨_, t, h.withScript (List.replicate (requestCount i s) .ok), hwaiting, hexec,
    hok.waiting.trans hwaiting, hok.lastcc⟩

theorem attains_errIo (i : Instr) : Attains i 1 := by
  obtain ⟨s, h, hwaiting, hadmitted⟩ := exists_admitted i
  obtain ⟨t, hexec⟩ := exists_exec_eq_next i (withScript s [.err])
  have hends := exec_admitted (admitted_withScript hadmitted [.err]) hexec
  have hfails := hends.failsAt (requestCount_pos ..) (answersThen_withScript_err s)
  exact ⟨_, t, h.withScript [.err], hwaiting, hexec, hfails.waiting.trans hwaiting, hfails.lastcc⟩

theorem attains_init_errFormat : Attains .init 2 :=
  ⟨blank 1, _, blank_invariant 1, rfl, exec_init_blank_format, rfl, rfl⟩

theorem exists_refused_of_lifecycle {i : Instr} {l : Lifecycle}
    (hl : l ∈ stateErrorLifecycles i) :
    ∃ s, Invariant s ∧ s.waiting = false ∧ s.lifecycle = l ∧ Refused s i 3 := by
  obtain ⟨s, h, hwaiting, rfl⟩ := exists_of_lifecycle l
  have hfault : s.status.fault = false := Bool.eq_false_of_not_eq_true fun hfault =>
    failed_notMem_stateErrorLifecycles i (lifecycle_eq_failed_iff.2 hfault ▸ hl)
  have hstate := (wrongState_iff_lifecycle hfault h.registers.closed_constructed).2 hl
  exact ⟨s, h, hwaiting, rfl, refused_of_wrongState hfault hstate⟩

theorem attains_errState {i : Instr} {l : Lifecycle} (hl : l ∈ stateErrorLifecycles i) :
    Attains i 3 := by
  obtain ⟨s, h, hwaiting, -, hrefused⟩ := exists_refused_of_lifecycle hl
  exact hrefused.attains h hwaiting

theorem attains_errFaulted (i : Instr) : Attains i 4 := by
  obtain ⟨s, h, hwaiting, hl⟩ := exists_of_lifecycle .failed
  exact (refused_of_fault (lifecycle_eq_failed_iff.1 hl) i).attains h hwaiting

/-- A RAW_LEN of 0xFFFFFFFF is more than WBLK admits (rule R173). -/
theorem attains_wblk_errOperand : Attains .wblk 5 := by
  obtain ⟨s, h, hwaiting, hl, hx⟩ := exists_opened_of_operands (Vector.replicate 8 0xFFFFFFFF)
  obtain ⟨hfault, hclosed, hconstructed⟩ := lifecycle_eq_opened_iff.1 hl
  have hoperands : s.operandsInadmissible = true := by
    rw [State.operandsInadmissible_eq_true, hx]
    exact .inl (by decide)
  exact (refused_of_exec (exec_wblk_of_operands hfault hconstructed hclosed hoperands)).attains
    h hwaiting

theorem attains_of_mem_completionCodes (i : Instr) : ∀ cc ∈ completionCodes i, Attains i cc := by
  cases i with
  | init =>
    simp only [completionCodes, List.forall_mem_cons]
    exact ⟨attains_ok _, attains_errIo _, attains_init_errFormat,
      attains_errState (l := .opened) (by decide), attains_errFaulted _, List.forall_mem_nil _⟩
  | wblk =>
    simp only [completionCodes, List.forall_mem_cons]
    exact ⟨attains_ok _, attains_errIo _, attains_errState (l := .unconstructed) (by decide),
      attains_errFaulted _, attains_wblk_errOperand, List.forall_mem_nil _⟩
  | close =>
    simp only [completionCodes, List.forall_mem_cons]
    exact ⟨attains_ok _, attains_errIo _, attains_errState (l := .unconstructed) (by decide),
      attains_errFaulted _, List.forall_mem_nil _⟩

/-- Settles O39: the ends of a command bound its codes, and each code and each state in brackets has
a state between two commands that shows it. -/
theorem completionCodesPerCommand : Obligations.CompletionCodesPerCommand := by
  unfold Obligations.CompletionCodesPerCommand
  intro codes stateErrorIn
  have hcodes (i : Instr) : codes i = completionCodes i := by cases i <;> rfl
  have hstates (i : Instr) : stateErrorIn i = stateErrorLifecycles i := by cases i <;> rfl
  refine ⟨fun i s t hclosed hexec hdone => ?bounded, fun i => ?attained, fun i l hl => ?brackets,
    fun w s t e hdecode hissue => ?reserved⟩
  case bounded =>
    rw [hcodes, hstates]
    refine ⟨lastcc_mem_completionCodes hexec hdone, fun hcode => ?_⟩
    obtain ⟨hfault, hstate⟩ := wrongState_of_lastcc hexec hdone hcode
    exact (wrongState_iff_lifecycle hfault hclosed).1 hstate
  case attained =>
    rw [hcodes]
    exact attains_of_mem_completionCodes i
  case brackets =>
    rw [hstates] at hl
    obtain ⟨s, h, hwaiting, hlifecycle, -, hexec⟩ := exists_refused_of_lifecycle hl
    exact ⟨s, _, h, hwaiting, hlifecycle, hexec, rfl⟩
  case reserved =>
    obtain rfl := Host.Outcome.next.inj ((issue_of_decode_error hdecode s).symm.trans hissue)
    rfl

end Sys2Proof.Safety
end

section
/-! PROOFS. The idle block: a step with no host operation pending (rules R281, R257). -/

namespace Sys2Proof.Machine

/-- Settles O10: an empty list of events is no reset, so a waiting machine keeps waiting, and an idle
one has no event to run. -/
theorem idleBlockHoldsState : Obligations.IdleBlockHoldsState := by
  intro s hpending
  cases hwaiting : s.waiting with
  | true =>
    have hreset : ∀ es, s.host.pending ≠ .reset :: es := by simp [hpending]
    exact step_of_waiting hwaiting hreset
  | false => simp only [step, takeEvent, hwaiting, hpending]

end Sys2Proof.Machine
end
